-- ==== Sys2Proof/Word.lean ====
section
/-! DEFINITION. The widths the spec gives its values (spec/00_scope.md R9, R11, R12; every value is unsigned). -/

namespace Sys2Proof

/-- A command word or one byte of a packet (R37, R43). -/
abbrev Byte := BitVec 8

/-- A 4-bit field of a packet: cable number, code index number, status nibble, channel (R43). -/
abbrev Nibble := BitVec 4

/-- A Button, by the spec's index `b = k - 1` in 0..4 (R11). -/
abbrev Button := Fin 5

/-- A State of a Button, one bit: On = 1, Off = 0 (R12). The spec's model type has `Bool` here (R31). -/
abbrev OnOff := Bool

/-- On = 1 (R12). -/
abbrev stateOn : OnOff := true

/-- Off = 0 (R12). -/
abbrev stateOff : OnOff := false

/-- One bit for each of the 5 Buttons, bit `b` for button index `b`: `LATCH`, `LAST` and the level vector of SAMPLE
(R15, R20, R51). "A hardware realisation is a 5-bit register indexed by b" (R16). -/
abbrev Levels := BitVec 5

end Sys2Proof
end

