-- ==== Sys2Proof/Config.lean ====
section
/-! DEFINITION. The build's parameters (spec/00_scope.md R7, R8; spec/10_state.md R23, R24, R31) and the values the spec leaves open. -/

namespace Sys2Proof

/-- `SAMPLE_ORDER`: "a permutation of the 5 buttons" (R7). The proof field makes any other list unrepresentable. The default is
the ascending order that "implementations use" (R7). -/
structure SampleOrder where
  toList : List Button := [0, 1, 2, 3, 4]
  isPermutation : toList.Perm [0, 1, 2, 3, 4] := by decide
  deriving DecidableEq, Repr, Inhabited

/-- Ascending button index, the order of the spec's own test vectors (R7, R81). -/
def SampleOrder.ascending : SampleOrder := { toList := [0, 1, 2, 3, 4] }

/-- Descending button index, the order of the vectors T-S5d and P5. -/
def SampleOrder.descending : SampleOrder := { toList := [4, 3, 2, 1, 0] }

/-- The parameters of one build: "a model takes each OPEN parameter as an argument" (R7, R31). `cable` and `channel` are 4 bits wide,
so that every value of this type is well formed (R8); `channel` is the wire nibble (R24, conflict C1). -/
structure Config where
  cable       : Nibble
  channel     : Nibble
  sampleOrder : SampleOrder
  deriving DecidableEq, Repr

/-- A configuration as it is offered at construction, before its two fields are known to fit 4 bits (R8). -/
structure RawConfig where
  cable       : Nat
  channel     : Nat
  sampleOrder : SampleOrder
  deriving DecidableEq, Repr

/-- OPEN parameter `CABLE` of the build behind `State.reset`: free, nothing constrains it (R7, D6; log 1). -/
opaque Config.buildCable : Nibble

/-- OPEN parameter `CHANNEL` of the build behind `State.reset`: free, nothing constrains it (R7, D5; log 1). -/
opaque Config.buildChannel : Nibble

/-- OPEN parameter `SAMPLE_ORDER` of the build behind `State.reset`: any permutation (R7, D8; log 1). -/
opaque Config.buildSampleOrder : SampleOrder

/-- The build behind `State.reset`, every parameter left open (R7; log 1). -/
def Config.build : Config :=
  { cable := Config.buildCable, channel := Config.buildChannel, sampleOrder := Config.buildSampleOrder }

/-- Free value: whether the operation with this index, when a reset coincides with it, wholly precedes the reset (true) or is
wholly discarded (false). "A model admits both outcomes", "a hardware implementation may pick either outcome" (R106; log 8). -/
opaque Config.coincidingOperationPrecedes : Nat → Bool

end Sys2Proof
end

