-- ==== Sys2Proof/Syntax.lean ====
section
/-! DEFINITION. The operations of the block, one constructor for each row of spec/opcode_table.json (spec/30_encoding.md R50 to R53), and
the reasons a command word is refused (R54). -/

namespace Sys2Proof

/-- The operations. The table's constraint `C[2:0] <= 4` of the rows UPDATE and ENCODE is the type of `b`. -/
inductive Instr where
  /-- UPDATE: deliver the Message (b, s) to the Reducer (R76). -/
  | update (b : Button) (s : OnOff)
  /-- ENCODE: apply the Encoder to (b, s) without touching the latch (R68). -/
  | encode (b : Button) (s : OnOff)
  /-- SAMPLE: observe the level vector LV, bit i for button index i (R80). -/
  | sample (lv : Levels)
  deriving DecidableEq, Repr

/-- Why `decode` refuses a command word (R54, R89). -/
inductive DecodeRefusal where
  /-- `C[7:5]` in 011..111. -/
  | reservedOpcode
  /-- `C[7:5]` in 000, 001 and `C[4]` = 1. -/
  | reservedBitSet
  /-- `C[7:5]` in 000, 001, `C[4]` = 0 and `C[2:0]` > 4. -/
  | buttonOutOfRange
  deriving DecidableEq, Repr

end Sys2Proof
end

