-- ==== Sys2Proof/WellFormed.lean ====
section
/-! DEFINITION. What is well formed: a command word, by the opcode map (spec/30_encoding.md R53), and a configuration
(spec/00_scope.md R8). A term of `Instr` needs no check: its button index has the type of the 5 Buttons (R11). -/

namespace Sys2Proof

/-- One row of the opcode map: the word matches when `C & mask = match` and, in format M, `C[2:0] <= 4` (R53). -/
structure OpcodeRow where
  mnemonic     : String
  pattern      : Byte
  mask         : Byte
  buttonAtMost4 : Bool
  deriving DecidableEq, Repr

/-- The three valid rows of the opcode map, as R53 and spec/opcode_table.json give them. -/
def opcodeMap : List OpcodeRow :=
  [ { mnemonic := "UPDATE", pattern := 0x00#8, mask := 0xF0#8, buttonAtMost4 := true },
    { mnemonic := "ENCODE", pattern := 0x20#8, mask := 0xF0#8, buttonAtMost4 := true },
    { mnemonic := "SAMPLE", pattern := 0x40#8, mask := 0xE0#8, buttonAtMost4 := false } ]

/-- The word has the row's fixed bits. -/
def OpcodeRow.fixedBitsOf (row : OpcodeRow) (w : Byte) : Bool := w &&& row.mask == row.pattern

/-- The word meets the row's constraint on its button field. -/
def OpcodeRow.constraintOf (row : OpcodeRow) (w : Byte) : Bool :=
  !row.buttonAtMost4 || decide ((w &&& 0x07#8).toNat ≤ 4)

/-- A well-formed command word: some row of the opcode map takes it (R53, R55). -/
def commandWordWellFormed (w : Byte) : Bool :=
  opcodeMap.any fun row => row.fixedBitsOf w && row.constraintOf w

/-- `CABLE` fits its 4 bits (R8). -/
def RawConfig.cableFits (r : RawConfig) : Bool := decide (r.cable ≤ 15)

/-- `CHANNEL` fits its 4 bits (R8). -/
def RawConfig.channelFits (r : RawConfig) : Bool := decide (r.channel ≤ 15)

/-- A well-formed configuration: "0 <= CABLE <= 15 and 0 <= CHANNEL <= 15" (R8). -/
def RawConfig.wellFormed (r : RawConfig) : Bool := r.cableFits && r.channelFits

end Sys2Proof
end

