-- ==== Sys2Proof/Decode.lean ====
section
/-! DEFINITION. The decoder, total on all 256 command words (spec/30_encoding.md R49 to R55), the encoder, and the assembler's text
and pseudo-operations (R57, R58). -/

namespace Sys2Proof

/-- `OP = C[7:5]` (R49). -/
def opField (w : Byte) : BitVec 3 := w.extractLsb' 5 3

/-- `R = C[4]`, reserved in format M (R50). -/
def reservedField (w : Byte) : Bool := w.getLsbD 4

/-- `S = C[3]` of format M (R50, R52). -/
def stateField (w : Byte) : OnOff := w.getLsbD 3

/-- `B = C[2:0]` of format M (R50, R52). -/
def buttonField (w : Byte) : BitVec 3 := w.extractLsb' 0 3

/-- `LV = C[4:0]` of format L (R51, R52). -/
def levelField (w : Byte) : Levels := w.extractLsb' 0 5

/-- The Button of a 3-bit index: "0..4; 5..7 are reserved" (R50). -/
def buttonOfField (f : BitVec 3) : Option Button :=
  if h : f.toNat < 5 then some ⟨f.toNat, h⟩ else none

/-- The decoder of R54, its checks in R54's order. -/
def decode (w : Byte) : Except DecodeRefusal Instr :=
  if opField w = 0b000#3 ∨ opField w = 0b001#3 then
    if reservedField w then .error .reservedBitSet
    else
      match buttonOfField (buttonField w) with
      | none => .error .buttonOutOfRange
      | some b => if opField w = 0b000#3 then .ok (.update b (stateField w)) else .ok (.encode b (stateField w))
  else if opField w = 0b010#3 then .ok (.sample (levelField w))
  else .error .reservedOpcode

/-- The 3-bit field of a button index (R50). -/
def fieldOfButton (b : Button) : BitVec 3 := BitVec.ofNat 3 b.val

/-- A format M word: `OP`, `R` = 0, `S`, `B` (R50). -/
def formatM (op : BitVec 3) (s : OnOff) (b : Button) : Byte :=
  op ++ 0#1 ++ BitVec.ofBool s ++ fieldOfButton b

/-- The command word of an operation (R50, R51, R57). -/
def encode (i : Instr) : Byte :=
  match i with
  | .update b s => formatM 0b000#3 s b
  | .encode b s => formatM 0b001#3 s b
  | .sample lv  => 0b010#3 ++ lv

/-- The instruction an accepted decoding gives. -/
def decode? (w : Byte) : Option Instr :=
  match decode w with
  | .ok i => some i
  | .error _ => none

/-- The command word of `nbits` bits whose bits are `w`, the bits above them zero: "every command word is exactly 8 bits long"
(R56), so a longer one with a bit set above bit 7 is none (log 16). -/
def tableWord? (nbits w : Nat) : Option Byte :=
  if w % 2 ^ nbits < 256 then some (BitVec.ofNat 8 (w % 2 ^ nbits)) else none

/-- What the decoder reads from a word of spec/opcode_table.json. -/
def decodeTableWord (nbits w : Nat) : Option Instr :=
  match tableWord? nbits w with
  | some c => decode? c
  | none => none

/-- Pseudo-operation `PRESS B<k>`: `UPDATE B<k>, ON` (R58). -/
def press (b : Button) : Instr := .update b stateOn

/-- Pseudo-operation `RELEASE B<k>`: `UPDATE B<k>, OFF` (R58). -/
def release (b : Button) : Instr := .update b stateOff

/-- `B<k>` with the source's number k = b + 1 (R11, R57). -/
def buttonText (b : Button) : String := "B" ++ toString (b.val + 1)

/-- `ON` or `OFF` (R57). -/
def stateText (s : OnOff) : String := if s then "ON" else "OFF"

/-- One digit of a level vector. -/
def levelDigit (x : OnOff) : String := if x then "1" else "0"

/-- The five digits, Button 5 leftmost and Button 1 rightmost (R57). -/
def levelsText (lv : Levels) : String :=
  levelDigit (lv.getLsbD 4) ++ levelDigit (lv.getLsbD 3) ++ levelDigit (lv.getLsbD 2) ++ levelDigit (lv.getLsbD 1)
    ++ levelDigit (lv.getLsbD 0)

/-- An operation in the spec's assembler syntax (R57; spacing as in its examples, log 21). -/
def assemblyText (i : Instr) : String :=
  match i with
  | .update b s => "UPDATE " ++ buttonText b ++ ", " ++ stateText s
  | .encode b s => "ENCODE " ++ buttonText b ++ ", " ++ stateText s
  | .sample lv  => "SAMPLE 0b" ++ levelsText lv

/-- `PRESS B<k>` as written (R58). -/
def pressText (b : Button) : String := "PRESS " ++ buttonText b

/-- `RELEASE B<k>` as written (R58). -/
def releaseText (b : Button) : String := "RELEASE " ++ buttonText b

/-- The 5 Buttons in ascending index (R7, R11). -/
def allButtons : List Button := [0, 1, 2, 3, 4]

/-- Every text the assembler accepts beside its word: all 52 operations and both pseudo-operations (R55, R57, R58). -/
def assemblerTable : List (String × Byte) :=
  ((List.range 256).filterMap fun n => (decode? (BitVec.ofNat 8 n)).map fun i => (assemblyText i, encode i))
    ++ allButtons.map (fun b => (pressText b, encode (press b)))
    ++ allButtons.map (fun b => (releaseText b, encode (release b)))

/-- The command word a line of assembler text stands for. `RESET` is none: it is "not a command word" (R57). -/
def assemble (text : String) : Option Byte :=
  (assemblerTable.find? fun row => row.1 == text).map fun row => row.2

end Sys2Proof
end

