-- ==== Sys2Proof/Machine/State.lean ====
section
/-! DEFINITION. The block's two registers, the model's run around them, and the reasons a step can stop (spec/10_state.md,
spec/60_exceptions.md R88 to R91, spec/70_reset_and_hazards.md R103, R114). -/

namespace Sys2Proof.Machine

/-- A Message: "an observed (Button, State) transition candidate" (R13). -/
structure Message where
  button : Button
  state  : OnOff
  deriving DecidableEq, Repr

/-- A packet: four bytes, byte0 first (R33). "A model's packet type may hold any 4 bytes" (R48). -/
structure Packet where
  byte0 : Byte
  byte1 : Byte
  byte2 : Byte
  byte3 : Byte
  deriving DecidableEq, Repr

/-- An Effect: "either emit packet or no effect" (R13). -/
inductive Effect where
  /-- `Nothing`. -/
  | nothing
  /-- `Midi(P)`. -/
  | midi (p : Packet)
  deriving DecidableEq, Repr

/-- What the environment does next (R101, R114). -/
inductive Event where
  /-- It issues a command word, the previous operation having completed (R35, R108). -/
  | command (w : Byte)
  /-- It asserts reset (R103). -/
  | reset
  /-- It asserts reset while it issues this command word: the two coincide (R106). -/
  | resetDuring (w : Byte)
  /-- It issues `next` while the operation of `current` has not completed, against its duty (R108; log 10). -/
  | overlapping (current next : Byte)
  /-- It halts and issues nothing further (R100; log 11). -/
  | halt
  deriving DecidableEq, Repr

/-- The block's whole state: "two 5-bit registers" (R15, R20, R30, R31). -/
structure BlockState where
  /-- `LATCH`: the current State of each Button (R15). -/
  latch : Levels
  /-- `LAST`: the level SAMPLE last observed for each Button (R20). -/
  last  : Levels
  deriving DecidableEq, Repr

/-- The reasons a step is refused: the closed list of R89, and the host's own reason. A refusal changes no state and emits nothing
(R10). Each is SAFE: the model gives no next state where the hardware has a no-operation or no defined behaviour (D7, D16). -/
inductive Refusal where
  /-- Raised by `exec` for an instruction without a meaning; no arm of this model raises it. Safe. -/
  | notModelled (mnemonic : String)
  /-- Raised by decode: `C[7:5]` in 011..111 (R89). Safe. -/
  | reservedOpcode
  /-- Raised by decode: format M and `C[4]` = 1 (R89). Safe. -/
  | reservedBitSet
  /-- Raised by decode: format M, `C[4]` = 0 and `C[2:0]` > 4 (R89). Safe. -/
  | buttonOutOfRange
  /-- Raised at model construction, `construct`: CABLE > 15 or CHANNEL > 15 (R8, R89). Safe. -/
  | configIllFormed
  /-- Raised by the step: an operation issued before the previous one completed (R89, R108). Safe. -/
  | overlappingIssue
  deriving DecidableEq, Repr

/-- The reasons a run stops without a refusal. The block itself raises no fault (R90). -/
inductive Fault where
  /-- Raised by the step when the environment has no further event: the run has ended (R114). Safe: there is no operation whose
  effect is left out (log 3). -/
  | endOfRun
  /-- Raised by the step when the environment has halted: "the run is stuck, and stuck is not a final state" (R100). Safe. -/
  | environmentHalted
  deriving DecidableEq, Repr

/-- The machine: the block, its build's parameters, and the run it is in. -/
structure State where
  /-- The build's parameters (R7, R23, R24, R31): no operation and no reset writes them. -/
  config  : Config
  /-- The block's registers (R31). -/
  block   : BlockState
  /-- The environment's remaining events, in issue order (R35, R114; log 2). -/
  events  : List Event
  /-- The output packet stream so far: every operation's packets, in issue order (R35, R114; log 4). -/
  stream  : List Packet
  /-- The index of the current operation in the issued stream, which stands for a program counter (R28; log 5). -/
  opIndex : Nat
  /-- The run-wide refused mark, with its reason (R88, R91; log 7). -/
  refused : Option Refusal
  deriving DecidableEq, Repr

/-- Both registers all Off: the values of R103 (R18, R22). -/
def BlockState.allOff : BlockState := { latch := 0b00000#5, last := 0b00000#5 }

/-- The start of a run on a build: "power-on is a reset" (R105), and a run "starts in the state of rule R103" (R114). -/
def State.powerOn (c : Config) (events : List Event) : State :=
  { config := c, block := .allOff, events := events, stream := [], opIndex := 0, refused := none }

/-- The machine right after reset (R103), on the build whose parameters are all open, before the environment has issued anything. -/
def State.reset : State := State.powerOn Config.build []

end Sys2Proof.Machine
end

