-- ==== Sys2Proof/Machine/Ops.lean ====
section
/-! DEFINITION. The shared operations over the block's registers and the run: reading and writing one bit, completing an operation,
asserting reset. The block has no memory (spec/20_memory.md R32) and takes no exception (spec/60_exceptions.md R90, R94); asserting reset
(spec/70_reset_and_hazards.md R103) is the one event that is not an operation. -/

namespace Sys2Proof.Machine

/-- `LATCH[b]`, `LAST[b]`, `LV[b]`: the bit of button index `b` (R10, R51). -/
def readLevel (v : Levels) (b : Button) : OnOff := v.getLsbD b.val

/-- The 5-bit vector with only the bit of button index `b` set. -/
def levelBit (b : Button) : Levels := 1#5 <<< b.val

/-- `LATCH[b] <- x`, `LAST[b] <- x`: every other bit keeps its value (R10, R69). -/
def writeLevel (v : Levels) (b : Button) (x : OnOff) : Levels :=
  if x then v ||| levelBit b else v &&& ~~~levelBit b

/-- An operation completes: its state writes are made, its packets go out behind those of every earlier operation, and the next
operation has the next index (R28, R35). -/
def State.complete (s : State) (block : BlockState) (out : List Packet) : State :=
  { s with block := block, stream := s.stream ++ out, opIndex := s.opIndex + 1 }

/-- An issued operation is wholly discarded: "no packet of it is emitted and no state write of it is made" (R106). -/
def State.discard (s : State) : State := { s with opIndex := s.opIndex + 1 }

/-- Reset takes effect: both registers all Off, nothing emitted, the parameters and the refused mark unchanged (R103, R104). -/
def State.assertReset (s : State) : State := { s with block := .allOff }

/-- The run with the environment's next event taken from it. -/
def State.dropEvent (s : State) : State := { s with events := s.events.tail }

/-- The environment's next event, and the run with that event taken. -/
def State.nextEvent (s : State) : Option (Event × State) :=
  match s.events with
  | [] => none
  | e :: _ => some (e, s.dropEvent)

/-- The run with this command word as the environment's very next event, and no refusal behind it (log 15). -/
def State.pushCommand (s : State) (w : Byte) : State :=
  { s with events := .command w :: s.events, refused := none }

/-- The run-wide refused mark is set (R88). -/
def State.markRefused (s : State) (r : Refusal) : State := { s with refused := some r }

/-- The model's refusal for a decoder's reason (R89). -/
def refusalOf (d : DecodeRefusal) : Refusal :=
  match d with
  | .reservedOpcode => .reservedOpcode
  | .reservedBitSet => .reservedBitSet
  | .buttonOutOfRange => .buttonOutOfRange

/-- The bytes of a packet in the order they go out (R33). -/
def packetBytes (p : Packet) : List Byte := [p.byte0, p.byte1, p.byte2, p.byte3]

/-- The 32-bit view of a packet: `byte0 | byte1<<8 | byte2<<16 | byte3<<24` (R34). -/
def packetWord (p : Packet) : BitVec 32 :=
  p.byte0.setWidth 32 ||| p.byte1.setWidth 32 <<< 8 ||| p.byte2.setWidth 32 <<< 16 ||| p.byte3.setWidth 32 <<< 24

end Sys2Proof.Machine
end

