-- ==== Sys2Proof/Machine/Flags.lean ====
section
/-! DEFINITION. The block has no status flags and no condition codes; what an operation reports is its Effect, "returned as its output
list" and "not held in a register" (spec/10_state.md R29). -/

namespace Sys2Proof.Machine

/-- "An empty list is Nothing, and a non-empty list holds one packet per Midi effect" (R29). -/
def effectOutput (e : Effect) : List Packet :=
  match e with
  | .nothing => []
  | .midi p => [p]

end Sys2Proof.Machine
end

