-- ==== Sys2Proof/Machine/Operands.lean ====
section
/-! DEFINITION. The two operand forms: format M's Message and format L's level vector (spec/30_encoding.md R50 to R52). No operand names
a register and none is signed, scaled or shifted (R52). -/

namespace Sys2Proof.Machine

/-- The Message (b, s) of a format M operation (R50). -/
def messageOperand (b : Button) (s : OnOff) : Message := { button := b, state := s }

/-- `LV[i]`, the logical level of button index `i` in a SAMPLE's level vector (R51). -/
def levelOperand (lv : Levels) (i : Button) : OnOff := readLevel lv i

/-- The Message (i, LV[i]) of a button in a SAMPLE's level vector (R77). -/
def sampledMessage (lv : Levels) (i : Button) : Message := { button := i, state := levelOperand lv i }

end Sys2Proof.Machine
end

