-- ==== Sys2Proof/Machine/Encoder.lean ====
section
/-! DEFINITION. The Encoder: the pure function `encode` of spec/40_encoder.md (R59 to R67) and the operation ENCODE (R68). -/

namespace Sys2Proof.Machine

/-- Code Index Number: 0x9 Note On, 0x8 Note Off (R47, R62). -/
def codeIndex (s : OnOff) : Nibble := if s then 0x9#4 else 0x8#4

/-- Status nibble: 0x9 Note On, 0x8 Note Off (R47, R62). -/
def statusNibble (s : OnOff) : Nibble := if s then 0x9#4 else 0x8#4

/-- `NOTE_BASE`: the note of Button 1 (R7). -/
def noteBase : Nat := 60

/-- `VELOCITY`: the velocity byte of every packet, Note Off too (R7, R46, R63). -/
def velocity : Byte := 0x7F#8

/-- `note(b) = 60 + b`, a 7-bit number (R43, R61). -/
def note (b : Button) : BitVec 7 := BitVec.ofNat 7 (noteBase + b.val)

/-- The byte `(hi << 4) | lo` of two nibbles (R44, R45). -/
def byteOfNibbles (hi lo : Nibble) : Byte := hi.setWidth 8 <<< 4 ||| lo.setWidth 8

/-- `encode(b, s)` for the Message (b, s): the packet of R62, which reads no state but the build's constants (R59, R60). -/
def encodePacket (c : Config) (m : Message) : Packet :=
  { byte0 := byteOfNibbles c.cable (codeIndex m.state)
    byte1 := byteOfNibbles (statusNibble m.state) c.channel
    byte2 := (note m.button).setWidth 8
    byte3 := velocity }

/-- ENCODE: `emit(encode(b, s))`; no register is written (R68). -/
def execEncode (b : Button) (d : OnOff) (s : State) : Host.Outcome State Fault Refusal :=
  .next (s.complete s.block [encodePacket s.config (messageOperand b d)])

end Sys2Proof.Machine
end

