-- ==== Sys2Proof/Machine/TransitionFilter.lean ====
section
/-! DEFINITION. The transition filter: the Reducer with UPDATE (spec/41_transition_filter.md R69 to R76) and the Sampler front end with
SAMPLE (R77 to R85). -/

namespace Sys2Proof.Machine

/-- `reduce(L, (b, s))`: the new latch and the Effect (R69). -/
def reduce (c : Config) (latch : Levels) (m : Message) : Levels × Effect :=
  if readLevel latch m.button = m.state then (latch, .nothing)
  else (writeLevel latch m.button m.state, .midi (encodePacket c m))

/-- Messages reduced one after the other, in the order they are delivered (R81): the final latch and the packets in order. -/
def reduceAll (c : Config) : List Message → Levels → Levels × List Packet
  | [], latch => (latch, [])
  | m :: rest, latch =>
    ((reduceAll c rest (reduce c latch m).1).1,
      effectOutput (reduce c latch m).2 ++ (reduceAll c rest (reduce c latch m).1).2)

/-- UPDATE: deliver one Message to the Reducer; `LAST` is never written (R76). -/
def execUpdate (b : Button) (v : OnOff) (s : State) : Host.Outcome State Fault Refusal :=
  .next (s.complete
    { latch := (reduce s.config s.block.latch (messageOperand b v)).1, last := s.block.last }
    (effectOutput (reduce s.config s.block.latch (messageOperand b v)).2))

/-- `detect(LAST, LV)`: one Message for each Button whose level differs from its last observed level, in `SAMPLE_ORDER` (R77). -/
def detect (order : List Button) (last lv : Levels) : List Message :=
  order.filterMap fun i => if levelOperand lv i ≠ readLevel last i then some (sampledMessage lv i) else none

/-- One turn of SAMPLE's loop, for button index `i`: the registers after it and the packets it emits (R80). -/
def sampleButton (c : Config) (lv : Levels) (i : Button) (blk : BlockState) : BlockState × List Packet :=
  if levelOperand lv i ≠ readLevel blk.last i then
    ({ latch := (reduce c blk.latch (sampledMessage lv i)).1, last := writeLevel blk.last i (levelOperand lv i) },
      effectOutput (reduce c blk.latch (sampledMessage lv i)).2)
  else (blk, [])

/-- SAMPLE's loop over the buttons of the given order (R80). -/
def sampleLoop (c : Config) (lv : Levels) : List Button → BlockState → BlockState × List Packet
  | [], blk => (blk, [])
  | i :: rest, blk =>
    ((sampleLoop c lv rest (sampleButton c lv i blk).1).1,
      (sampleButton c lv i blk).2 ++ (sampleLoop c lv rest (sampleButton c lv i blk).1).2)

/-- SAMPLE: observe all five levels, detect changes and reduce each change, in the build's `SAMPLE_ORDER` (R80, R81). -/
def execSample (lv : Levels) (s : State) : Host.Outcome State Fault Refusal :=
  .next (s.complete (sampleLoop s.config lv s.config.sampleOrder.toList s.block).1
    (sampleLoop s.config lv s.config.sampleOrder.toList s.block).2)

end Sys2Proof.Machine
end

