-- ==== Sys2Proof/Machine/Dispatch.lean ====
section
/-! DEFINITION. The dispatch: one arm for each operation of the opcode table. -/

namespace Sys2Proof.Machine

def exec (i : Instr) (s : State) : Host.Outcome State Fault Refusal :=
  match i with
  | .update b v => Sys2Proof.Machine.execUpdate b v s
  | .encode b d => Sys2Proof.Machine.execEncode b d s
  | .sample lv => Sys2Proof.Machine.execSample lv s

end Sys2Proof.Machine
end

