-- ==== Sys2Proof/Machine/Issue.lean ====
section
/-! DEFINITION. What the machine does with each event of the environment: an issued command word (spec/60_exceptions.md R88), reset
(spec/70_reset_and_hazards.md R103), reset that coincides with an operation (R106), an overlapping issue (R108), a halt (R100). -/

namespace Sys2Proof.Machine

/-- A command word is issued: its operation runs, or the word is refused by name (R54, R88). -/
def issue (w : Byte) (s : State) : Host.Outcome State Fault Refusal :=
  match decode w with
  | .ok i => exec i s
  | .error d => .refused (refusalOf d)

/-- Reset takes effect behind an operation's outcome. -/
def thenReset (o : Host.Outcome State Fault Refusal) : Host.Outcome State Fault Refusal :=
  match o with
  | .next s => .next s.assertReset
  | .fault f => .fault f
  | .refused r => .refused r

/-- Reset coincides with a command word: the operation wholly precedes the reset or is wholly discarded, as the free value of its
index says (R106; log 8). A word that is no operation is refused whichever it is (R88; log 9). -/
def issueDuringReset (w : Byte) (s : State) : Host.Outcome State Fault Refusal :=
  match decode w with
  | .ok i =>
    match Config.coincidingOperationPrecedes s.opIndex with
    | true => thenReset (exec i s)
    | false => .next s.discard.assertReset
  | .error d => .refused (refusalOf d)

/-- The machine's answer to one event of the environment, the event already taken from the run. -/
def respond (e : Event) (s : State) : Host.Outcome State Fault Refusal :=
  match e with
  | .command w => issue w s
  | .reset => .next s.assertReset
  | .resetDuring w => issueDuringReset w s
  | .overlapping _ _ => .refused .overlappingIssue
  | .halt => .fault .environmentHalted

/-- The HARDWARE's answer to a command word: as the model's, but a refused word "is a no-operation. It writes no state, emits no packet
and has no other effect" (R88). Kept beside the model, which refuses such a word. -/
def hardwareIssue (w : Byte) (s : State) : Host.Outcome State Fault Refusal :=
  match decode w with
  | .ok i => exec i s
  | .error _ => .next s.discard

/-- The HARDWARE's answer to one event: it takes a refused word as a no-operation, also when a reset coincides with it, and is the model's
answer everywhere else (R88). -/
def hardwareRespond (e : Event) (s : State) : Host.Outcome State Fault Refusal :=
  match e with
  | .command w => hardwareIssue w s
  | .reset => respond .reset s
  | .resetDuring w =>
    match decode w with
    | .ok _ => respond (.resetDuring w) s
    | .error _ => .next s.discard.assertReset
  | .overlapping w v => respond (.overlapping w v) s
  | .halt => respond .halt s

end Sys2Proof.Machine
end

