-- ==== Sys2Proof/Machine/Step.lean ====
section
/-! DEFINITION. One step: one event of the environment (spec/70_reset_and_hazards.md R111, R113, R114). -/

namespace Sys2Proof.Machine

/-- One step. A run that carries the refused mark has no further step (R91, R114); neither has one whose events are all taken (R114). -/
def step (s : State) : Host.Outcome State Fault Refusal :=
  match s.refused with
  | some r => .refused r
  | none =>
    match s.nextEvent with
    | none => .fault .endOfRun
    | some (e, rest) => respond e rest

/-- `s` with the table's word as the command word the environment issues next (log 2, log 15). -/
def State.withFetchWord (s : State) (nbits w : Nat) : State :=
  s.pushCommand (BitVec.ofNat 8 (w % 2 ^ nbits))

end Sys2Proof.Machine
end

