-- ==== Sys2Proof/Machine/Construct.lean ====
section
/-! DEFINITION. Construction of a model from a build's parameters: a configuration that is not well formed is refused "at construction
time" and never runs (spec/00_scope.md R8; spec/60_exceptions.md R89; spec/70_reset_and_hazards.md R107). -/

namespace Sys2Proof.Machine

/-- The 4-bit parameters of a configuration (R7); the values are those offered when the configuration is well formed. -/
def configOf (r : RawConfig) : Config :=
  { cable := BitVec.ofNat 4 r.cable, channel := BitVec.ofNat 4 r.channel, sampleOrder := r.sampleOrder }

/-- The start of a run on the offered build, or the refusal `ConfigIllFormed` (R8, R89, R107). -/
def construct (r : RawConfig) (events : List Event) : Host.Outcome State Fault Refusal :=
  if r.wellFormed then .next (State.powerOn (configOf r) events) else .refused .configIllFormed

end Sys2Proof.Machine
end

