-- ==== Sys2Proof/Machine/Environment.lean ====
section
/-! DEFINITION. The environment behind the block's output: the downstream `send` (spec/60_exceptions.md R98) and the mailbox in front of it
(R102). Neither is state of the block, and the block is told nothing of them (R99). -/

namespace Sys2Proof.Machine

/-- `send(packet)`: in the Configured state the packet's 4 bytes in order, otherwise nothing, "no error, no retry, no queue" (R98). -/
def send (configured : Bool) (p : Packet) : List Byte := if configured then packetBytes p else []

/-- The bytes transmitted for a list of packets sent in one enumeration state (R98). -/
def transmitted (configured : Bool) (ps : List Packet) : List Byte := ps.flatMap (send configured)

/-- The mailbox's capacity, "e.g. 5, one per Button" (R102). -/
def mailboxCapacity : Nat := 5

/-- A packet is put into the mailbox: an overflow "drops the newest message", and a drop must be admitted "whenever the mailbox is not
empty" (R102). `drop` is the environment's choice of such a drop (log 18). -/
def post (box : List Packet) (drop : Bool) (p : Packet) : List Packet :=
  if box.length < mailboxCapacity ∧ ¬(drop = true ∧ box ≠ []) then box ++ [p] else box

/-- Packets put into the mailbox one after the other, each with the environment's choice. -/
def postAll : List Packet → List (Bool × Packet) → List Packet
  | box, [] => box
  | box, d :: rest => postAll (post box d.1 d.2) rest

end Sys2Proof.Machine
end

