-- ==== Sys2Proof/Machine/Run.lean ====
section
/-! DEFINITION. Runs: several steps, the run-wide refused mark, the end of a run and its observation (spec/60_exceptions.md R88, R91,
R100; spec/70_reset_and_hazards.md R113, R114), and the hardware's run beside the model's (R88). -/

namespace Sys2Proof.Machine

/-- `n` steps, stopping at the first fault or refusal. -/
def runSteps : Nat → State → Host.Outcome State Fault Refusal
  | 0, s => .next s
  | n + 1, s =>
    match step s with
    | .next t => runSteps n t
    | .fault f => .fault f
    | .refused r => .refused r

/-- One step of a run with its bookkeeping: a refusal "sets a run-wide refused mark" and changes nothing else (R10, R88). -/
def advance (s : State) : State :=
  match step s with
  | .next t => t
  | .fault _ => s
  | .refused r => s.markRefused r

/-- `n` steps of a run with its bookkeeping. -/
def advanceFor : Nat → State → State
  | 0, s => s
  | n + 1, s => advanceFor n (advance s)

/-- A run is final when "the last event has taken effect with no refusal" (R114); a halted run keeps its halt and is never final (R100). -/
def State.isFinal (s : State) : Bool := s.events.isEmpty && s.refused.isNone

/-- "The observation of a run is its final BlockState and its output stream"; "a run that raised a refusal has no final state" (R114). -/
def State.observation (s : State) : Option (BlockState × List Packet) :=
  if s.isFinal then some (s.block, s.stream) else none

/-- The operations issued one after the other, each as its command word (R35). -/
def commandsOf (ops : List Instr) : List Event := ops.map fun i => .command (encode i)

/-- One step of the HARDWARE: as the model's, but it records no refusal and takes a refused command word as a no-operation (R88, R91). -/
def hardwareStep (s : State) : Host.Outcome State Fault Refusal :=
  match s.nextEvent with
  | none => .fault .endOfRun
  | some (e, rest) => hardwareRespond e rest

/-- `n` steps of the hardware. -/
def hardwareRunSteps : Nat → State → Host.Outcome State Fault Refusal
  | 0, s => .next s
  | n + 1, s =>
    match hardwareStep s with
    | .next t => hardwareRunSteps n t
    | .fault f => .fault f
    | .refused r => .refused r

end Sys2Proof.Machine
end

