-- ==== Sys2Proof/Safety.lean ====
section
/-! DEFINITION. The terms in which claims about runs are made: which packets may appear in the output (spec/30_encoding.md R48), which
events are which, and what the output stream says of a Button. -/

namespace Sys2Proof.Machine

/-- The only packets that ever appear: both nibbles of one kind, the build's cable and channel, a note in 60..64, velocity 127 (R48). -/
def packetWellFormed (c : Config) (p : Packet) : Prop :=
  (p.byte0.extractLsb' 0 4 = 0x9#4 ∨ p.byte0.extractLsb' 0 4 = 0x8#4) ∧
  p.byte1.extractLsb' 4 4 = p.byte0.extractLsb' 0 4 ∧
  p.byte0.extractLsb' 4 4 = c.cable ∧ p.byte1.extractLsb' 0 4 = c.channel ∧
  60 ≤ p.byte2.toNat ∧ p.byte2.toNat ≤ 64 ∧ p.byte3 = 0x7F#8

/-- Every packet of the output stream is one of those (R48). -/
def State.streamWellFormed (s : State) : Prop := ∀ p ∈ s.stream, packetWellFormed s.config p

/-- The event issues an UPDATE. -/
def Event.isUpdate (e : Event) : Bool :=
  match e with
  | .command w => match decode? w with
    | some (.update _ _) => true
    | _ => false
  | _ => false

/-- The event issues a SAMPLE or an UPDATE: an operation of the transition filter. -/
def Event.isFilterOperation (e : Event) : Bool :=
  match e with
  | .command w => match decode? w with
    | some (.update _ _) => true
    | some (.sample _) => true
    | _ => false
  | _ => false

/-- The environment keeps its duties in this event: a valid command word in its turn, or reset (R101, R114). -/
def Event.isDutiful (e : Event) : Bool :=
  match e with
  | .command w => (decode? w).isSome
  | .resetDuring w => (decode? w).isSome
  | .reset => true
  | .overlapping _ _ => false
  | .halt => false

/-- The packet is a Note On or Note Off of this Button (R61). -/
def packetIsOf (b : Button) (p : Packet) : Bool := decide (p.byte2 = (note b).setWidth 8)

/-- The packet's direction, by its status nibble (R47). -/
def packetDirection (p : Packet) : OnOff := decide (p.byte1.extractLsb' 4 4 = 0x9#4)

/-- The directions of a Button's packets in an output stream, oldest first. -/
def directionsOf (b : Button) (stream : List Packet) : List OnOff := (stream.filter (packetIsOf b)).map packetDirection

/-- Each direction differs from the one before it, the first from `x`. -/
def alternatesFrom : OnOff → List OnOff → Prop
  | _, [] => True
  | x, y :: rest => y ≠ x ∧ alternatesFrom y rest

/-- For every Button the stream alternates Note On and Note Off, Note On first, and its last direction is the Button's latch (R70, R73). -/
def State.latchTracksStream (s : State) : Prop :=
  ∀ b : Button, alternatesFrom stateOff (directionsOf b s.stream) ∧
    (directionsOf b s.stream).getLastD stateOff = readLevel s.block.latch b

end Sys2Proof.Machine
end

