-- ==== Sys2Proof/Certificates/Slice0/Obligations.lean ====
section
/-! DEFINITION. The statements for the provers, each with the rule of spec/ it formalises or rests on. Every statement holds for every
build: the parameters are fields of the state or arguments. -/

section decoding
open Sys2Proof Sys2Proof.Machine

/-- R54: the decoder, on each of the 256 command words, its three refusals in R54's order. -/
def Obligations.DecoderFollowsTheOperationField : Prop :=
  ∀ w : Byte,
    ((w.extractLsb' 5 3 = 0b000#3 ∨ w.extractLsb' 5 3 = 0b001#3) → w.getLsbD 4 = true →
      decode w = .error .reservedBitSet) ∧
    ((w.extractLsb' 5 3 = 0b000#3 ∨ w.extractLsb' 5 3 = 0b001#3) → w.getLsbD 4 = false → 4 < (w.extractLsb' 0 3).toNat →
      decode w = .error .buttonOutOfRange) ∧
    (w.extractLsb' 5 3 = 0b000#3 → w.getLsbD 4 = false → (w.extractLsb' 0 3).toNat ≤ 4 →
      ∃ b : Button, b.val = (w.extractLsb' 0 3).toNat ∧ decode w = .ok (.update b (w.getLsbD 3))) ∧
    (w.extractLsb' 5 3 = 0b001#3 → w.getLsbD 4 = false → (w.extractLsb' 0 3).toNat ≤ 4 →
      ∃ b : Button, b.val = (w.extractLsb' 0 3).toNat ∧ decode w = .ok (.encode b (w.getLsbD 3))) ∧
    (w.extractLsb' 5 3 = 0b010#3 → decode w = .ok (.sample (w.extractLsb' 0 5))) ∧
    (3 ≤ (w.extractLsb' 5 3).toNat → decode w = .error .reservedOpcode)

/-- R50, R51, R57: decoding the command word of an operation gives the operation back, for every operand value. -/
def Obligations.DecodeOfEncodeIsTheOperation : Prop :=
  ∀ i : Instr, decode (encode i) = .ok i

/-- R54: each accepted word is the word of its operation: no bit of it is dropped. -/
def Obligations.EncodeOfDecodeIsTheWord : Prop :=
  ∀ (w : Byte) (i : Instr), decode w = .ok i → encode i = w

/-- R55: the census of the 256 command words, and the valid ones are those the opcode map of R53 takes. -/
def Obligations.CensusOfCommandWords : Prop :=
  (∀ w : Byte, (decode? w).isSome = commandWordWellFormed w) ∧
  ((List.range 256).countP fun n => decide (∃ b s, decode? (BitVec.ofNat 8 n) = some (.update b s))) = 10 ∧
  ((List.range 256).countP fun n => decide (∃ b s, decode? (BitVec.ofNat 8 n) = some (.encode b s))) = 10 ∧
  ((List.range 256).countP fun n => decide (∃ lv, decode? (BitVec.ofNat 8 n) = some (.sample lv))) = 32 ∧
  ((List.range 256).countP fun n => match decode (BitVec.ofNat 8 n) with
    | .error .reservedOpcode => true
    | _ => false) = 160 ∧
  ((List.range 256).countP fun n => match decode (BitVec.ofNat 8 n) with
    | .error .reservedBitSet => true
    | _ => false) = 32 ∧
  ((List.range 256).countP fun n => match decode (BitVec.ofNat 8 n) with
    | .error .buttonOutOfRange => true
    | _ => false) = 12

/-- Words written out from R50 and R51, and the assembler examples of R57 (vectors T-D1 to T-D3 among them). -/
def Obligations.WordsOfTheSpecDecode : Prop :=
  decode 0b00001100#8 = .ok (.update 4 stateOn) ∧ decode 0b00000100#8 = .ok (.update 4 stateOff) ∧
  decode 0b00101100#8 = .ok (.encode 4 stateOn) ∧ decode 0b00101010#8 = .ok (.encode 2 stateOn) ∧
  decode 0b01011111#8 = .ok (.sample 0b11111#5) ∧ decode 0b01000101#8 = .ok (.sample 0b00101#5)

/-- R57, R58: the assembler text of each operation stands for its word, `PRESS B<k>` and `RELEASE B<k>` for `0x08 + (k-1)` and
`0x00 + (k-1)`, which are `UPDATE B<k>, ON` and `UPDATE B<k>, OFF`; the examples of R57; and `RESET` is not a command word.
The spacing of the text is the model's reading of the examples (log 21). -/
def Obligations.AssemblerTextStandsForItsWord : Prop :=
  (∀ i : Instr, assemble (assemblyText i) = some (encode i)) ∧
  (∀ b : Button, assemble (pressText b) = some (0x08#8 + BitVec.ofNat 8 b.val) ∧
    assemble (releaseText b) = some (0x00#8 + BitVec.ofNat 8 b.val) ∧
    decode (0x08#8 + BitVec.ofNat 8 b.val) = .ok (.update b stateOn) ∧ decode (0x00#8 + BitVec.ofNat 8 b.val) = .ok (.update b stateOff)) ∧
  assemble "UPDATE B1, ON" = some 0x08#8 ∧ assemble "UPDATE B5, OFF" = some 0x04#8 ∧
  assemble "ENCODE B3, ON" = some 0x2A#8 ∧ assemble "SAMPLE 0b00101" = some 0x45#8 ∧ assemble "RESET" = none

end decoding

section encoder
open Sys2Proof Sys2Proof.Machine

/-- R62: the four bytes of `encode(b, s)`. -/
def Obligations.EncodeFunctionBytes : Prop :=
  ∀ (c : Config) (b : Button) (s : OnOff),
    packetBytes (encodePacket c { button := b, state := s }) =
      [ (c.cable.setWidth 8 <<< 4) ||| (if s = stateOn then 0x09#8 else 0x08#8),
        ((if s = stateOn then 0x09#8 else 0x08#8) <<< 4) ||| c.channel.setWidth 8,
        BitVec.ofNat 8 (60 + b.val),
        0x7F#8 ]

/-- R43 to R47: the layout of the packet's fields. -/
def Obligations.PacketFieldLayout : Prop :=
  ∀ (c : Config) (m : Message), ∃ p, encodePacket c m = p ∧
    p.byte0.extractLsb' 4 4 = c.cable ∧
    p.byte0.extractLsb' 0 4 = (if m.state = stateOn then 0x9#4 else 0x8#4) ∧
    p.byte1.extractLsb' 4 4 = (if m.state = stateOn then 0x9#4 else 0x8#4) ∧
    p.byte1.extractLsb' 0 4 = c.channel ∧
    p.byte2.getLsbD 7 = false ∧ (p.byte2.extractLsb' 0 7).toNat = 60 + m.button.val ∧
    p.byte3.getLsbD 7 = false ∧ (p.byte3.extractLsb' 0 7).toNat = 127

/-- R64: the fields do not spill into each other and nothing overflows: each byte is the exact sum. -/
def Obligations.PacketArithmeticIsExact : Prop :=
  ∀ (c : Config) (m : Message), ∃ p, encodePacket c m = p ∧
    p.byte0.toNat = 16 * c.cable.toNat + (if m.state = stateOn then 9 else 8) ∧
    p.byte1.toNat = 16 * (if m.state = stateOn then 9 else 8) + c.channel.toNat ∧
    p.byte2.toNat = 60 + m.button.val ∧ p.byte2.toNat < 128 ∧ p.byte3.toNat = 127

/-- R65: `encode` is injective on its 10 inputs; On and Off differ in byte0 and byte1, Buttons differ in byte2. -/
def Obligations.EncodeFunctionIsInjective : Prop :=
  ∀ (c : Config) (m n : Message),
    (encodePacket c m = encodePacket c n → m = n) ∧
    (m.state ≠ n.state → (encodePacket c m).byte0.extractLsb' 0 4 ≠ (encodePacket c n).byte0.extractLsb' 0 4 ∧
      (encodePacket c m).byte1.extractLsb' 4 4 ≠ (encodePacket c n).byte1.extractLsb' 4 4) ∧
    (m.button ≠ n.button → (encodePacket c m).byte2 ≠ (encodePacket c n).byte2)

/-- R34: byte i of a packet is bits [8i+7:8i] of its 32-bit view, and R34's example. -/
def Obligations.PacketWordView : Prop :=
  (∀ p : Packet, (packetWord p).extractLsb' 0 8 = p.byte0 ∧ (packetWord p).extractLsb' 8 8 = p.byte1 ∧
    (packetWord p).extractLsb' 16 8 = p.byte2 ∧ (packetWord p).extractLsb' 24 8 = p.byte3) ∧
  packetWord { byte0 := 0x09#8, byte1 := 0x90#8, byte2 := 0x3C#8, byte3 := 0x7F#8 } = 0x7F3C9009#32

/-- R68: ENCODE. Its words; the words of its opcode that are refused; and from every state it completes, emits exactly `encode(b, d)`
and leaves every register, parameter, remaining event and the refused mark as they were. -/
def Obligations.EncodeOperation : Prop :=
  (∀ w : Byte, w &&& 0xF0#8 = 0x20#8 → (w.extractLsb' 0 3).toNat ≤ 4 →
    ∃ b : Button, b.val = (w.extractLsb' 0 3).toNat ∧ decode w = .ok (.encode b (w.getLsbD 3))) ∧
  (∀ w : Byte, w.extractLsb' 5 3 = 0b001#3 → (w.getLsbD 4 = true ∨ 4 < (w.extractLsb' 0 3).toNat) →
    ∃ d, decode w = .error d) ∧
  (∀ (b : Button) (d : OnOff) (s : State), ∃ n, exec (.encode b d) s =
    .next { s with stream := s.stream ++ [encodePacket s.config { button := b, state := d }], opIndex := n })

end encoder

section filter
open Sys2Proof Sys2Proof.Machine

/-- R69: `reduce`: the unchanged latch and `Nothing` when the entry equals the State; otherwise that one entry changed, every other
unchanged, and `Midi(encode(b, s))`. -/
def Obligations.ReduceFollowsItsAlgorithm : Prop :=
  ∀ (c : Config) (latch : Levels) (m : Message),
    (readLevel latch m.button = m.state → reduce c latch m = (latch, .nothing)) ∧
    (readLevel latch m.button ≠ m.state → ∃ latch', reduce c latch m = (latch', .midi (encodePacket c m)) ∧
      ∀ i : Button, readLevel latch' i = if i = m.button then m.state else readLevel latch i)

/-- R70, R71: a packet is produced if and only if the State differs, at most that one entry changes, and only then. -/
def Obligations.ReduceEmitsIffStateDiffers : Prop :=
  ∀ (c : Config) (latch : Levels) (m : Message),
    ((∃ p, (reduce c latch m).2 = .midi p) ↔ readLevel latch m.button ≠ m.state) ∧
    ((reduce c latch m).2 = .nothing ↔ readLevel latch m.button = m.state) ∧
    (∀ i : Button, readLevel (reduce c latch m).1 i ≠ readLevel latch i →
      i = m.button ∧ (∃ p, (reduce c latch m).2 = .midi p) ∧ readLevel (reduce c latch m).1 i = m.state)

/-- R74: reducing the same Message again changes nothing and has the Effect `Nothing`; and so it is for UPDATE issued twice. -/
def Obligations.ReduceIsIdempotent : Prop :=
  (∀ (c : Config) (latch latch' : Levels) (m : Message) (e : Effect), reduce c latch m = (latch', e) →
    reduce c latch' m = (latch', .nothing)) ∧
  (∀ (b : Button) (v : OnOff) (s : State), ∃ t n, exec (.update b v) s = .next t ∧
    exec (.update b v) t = .next { t with opIndex := n })

/-- R76: UPDATE. Its words; the words of its opcode that are refused; and from every state it completes: with the same State stored
nothing changes and no packet goes out; otherwise `LATCH[b]` alone is written and `encode(b, v)` goes out. `LAST`, the parameters, the
remaining events and the refused mark are never written. -/
def Obligations.UpdateOperation : Prop :=
  (∀ w : Byte, w &&& 0xF0#8 = 0x00#8 → (w.extractLsb' 0 3).toNat ≤ 4 →
    ∃ b : Button, b.val = (w.extractLsb' 0 3).toNat ∧ decode w = .ok (.update b (w.getLsbD 3))) ∧
  (∀ w : Byte, w.extractLsb' 5 3 = 0b000#3 → (w.getLsbD 4 = true ∨ 4 < (w.extractLsb' 0 3).toNat) →
    ∃ d, decode w = .error d) ∧
  (∀ (b : Button) (v : OnOff) (s : State),
    (readLevel s.block.latch b = v → ∃ n, exec (.update b v) s = .next { s with opIndex := n }) ∧
    (readLevel s.block.latch b ≠ v → ∃ (latch' : Levels) (n : Nat),
      exec (.update b v) s = .next { s with
        block := { latch := latch', last := s.block.last },
        stream := s.stream ++ [encodePacket s.config { button := b, state := v }],
        opIndex := n } ∧
      ∀ i : Button, readLevel latch' i = if i = b then v else readLevel s.block.latch i))

/-- R80, R81: SAMPLE. Its words; and from every state it completes: `LAST = LV`, `LATCH[i]` is the new level of each Button whose level
changed and the old State of every other, and the packets are those of the Buttons whose level differs from both registers, in
`SAMPLE_ORDER`. The parameters, the remaining events and the refused mark are never written. -/
def Obligations.SampleOperation : Prop :=
  (∀ w : Byte, w &&& 0xE0#8 = 0x40#8 → decode w = .ok (.sample (w.extractLsb' 0 5))) ∧
  (∀ (lv : Levels) (s : State), ∃ (latch' : Levels) (n : Nat),
    exec (.sample lv) s = .next { s with
      block := { latch := latch', last := lv },
      stream := s.stream ++
        ((s.config.sampleOrder.toList.filter fun i =>
            decide (readLevel lv i ≠ readLevel s.block.last i ∧ readLevel s.block.latch i ≠ readLevel lv i)).map
          fun i => encodePacket s.config { button := i, state := readLevel lv i }),
      opIndex := n } ∧
    ∀ i : Button, readLevel latch' i =
      if readLevel lv i ≠ readLevel s.block.last i then readLevel lv i else readLevel s.block.latch i)

/-- R77, R78: `detect` gives a Message for exactly the Buttons whose level differs from `LAST`, each with the new level, at most one a
Button; and after a SAMPLE `LAST = LV`. -/
def Obligations.DetectReportsExactlyTheChanges : Prop :=
  (∀ (order : SampleOrder) (last lv : Levels) (m : Message), m ∈ detect order.toList last lv ↔
    m.state = readLevel lv m.button ∧ readLevel lv m.button ≠ readLevel last m.button) ∧
  (∀ (order : SampleOrder) (last lv : Levels), ((detect order.toList last lv).map Message.button).Nodup) ∧
  (∀ (lv : Levels) (s : State), ∃ t, exec (.sample lv) s = .next t ∧ t.block.last = lv)

/-- R77, R80, R81: SAMPLE's interleaved loop is the Sampler followed by the Reducer: detect all changes against the old `LAST`, reduce the
Messages in the order they were generated, and set `LAST` to the level vector. -/
def Obligations.SampleIsDetectThenReduce : Prop :=
  ∀ (c : Config) (lv : Levels) (blk : BlockState),
    sampleLoop c lv c.sampleOrder.toList blk =
      ({ latch := (reduceAll c (detect c.sampleOrder.toList blk.last lv) blk.latch).1, last := lv },
        (reduceAll c (detect c.sampleOrder.toList blk.last lv) blk.latch).2)

/-- R82: an operation emits 0 to 5 packets: UPDATE at most 1, ENCODE exactly 1, SAMPLE at most one a Button. -/
def Obligations.PacketsPerOperation : Prop :=
  ∀ (i : Instr) (s : State), ∃ t out, exec i s = .next t ∧ t.stream = s.stream ++ out ∧ out.length ≤ 5 ∧
    (∀ b v, i = .update b v → out.length ≤ 1) ∧ (∀ b d, i = .encode b d → out.length = 1) ∧
    (∀ lv, i = .sample lv → ∀ b : Button, (out.filter (packetIsOf b)).length ≤ 1)

/-- R38: repeated operations: ENCODE writes no state; a second identical UPDATE does nothing; a SAMPLE of `LAST`'s own vector does
nothing, whatever UPDATEs came before. -/
def Obligations.RepeatedOperations : Prop :=
  (∀ (b : Button) (d : OnOff) (s : State), ∃ t, exec (.encode b d) s = .next t ∧ t.block = s.block) ∧
  (∀ (b : Button) (v : OnOff) (s : State), ∃ t u, exec (.update b v) s = .next t ∧ exec (.update b v) t = .next u ∧
    u.block = t.block ∧ u.stream = t.stream) ∧
  (∀ s : State, ∃ n, exec (.sample s.block.last) s = .next { s with opIndex := n })

/-- R83, R110: after an UPDATE has made the registers differ: a level equal to `LAST[i]` is not reported and `LATCH[i]` stays; a level
that differs from `LAST[i]` and equals `LATCH[i]` emits nothing for that Button, and `LAST[i]` takes it. -/
def Obligations.DivergedRegistersUnderSample : Prop :=
  ∀ (lv : Levels) (i : Button) (s : State), ∃ t out, exec (.sample lv) s = .next t ∧ t.stream = s.stream ++ out ∧
    (readLevel lv i = readLevel s.block.last i →
      out.filter (packetIsOf i) = [] ∧ readLevel t.block.latch i = readLevel s.block.latch i) ∧
    (readLevel lv i ≠ readLevel s.block.last i → readLevel lv i = readLevel s.block.latch i →
      out.filter (packetIsOf i) = [] ∧ readLevel t.block.latch i = readLevel s.block.latch i ∧
      readLevel t.block.last i = readLevel lv i) ∧
    (readLevel lv i ≠ readLevel s.block.last i → readLevel lv i ≠ readLevel s.block.latch i →
      out.filter (packetIsOf i) = [encodePacket s.config { button := i, state := readLevel lv i }])

/-- R87: Messages of distinct Buttons, reduced in any order, leave the same latch and emit the same packets up to order; so a SAMPLE's
final registers do not depend on `SAMPLE_ORDER`, and its packets only in their order. -/
def Obligations.ReductionsOfDistinctButtonsCommute : Prop :=
  (∀ (c : Config) (latch : Levels) (ms ns : List Message), ms.Perm ns → (ms.map Message.button).Nodup →
    (reduceAll c ms latch).1 = (reduceAll c ns latch).1 ∧ (reduceAll c ms latch).2.Perm (reduceAll c ns latch).2) ∧
  (∀ (c : Config) (order : SampleOrder) (lv : Levels) (blk : BlockState),
    (sampleLoop { c with sampleOrder := order } lv order.toList blk).1 = (sampleLoop c lv c.sampleOrder.toList blk).1 ∧
    (sampleLoop { c with sampleOrder := order } lv order.toList blk).2.Perm (sampleLoop c lv c.sampleOrder.toList blk).2)

/-- R40: UPDATEs of distinct buttons, issued in any order, leave the same registers and emit the same packets up to order; of two UPDATEs
of one button the later one's State remains. -/
def Obligations.UpdatesOfDistinctButtonsCommute : Prop :=
  (∀ (s : State) (ms ns : List Message), s.refused = none → ms.Perm ns → (ms.map Message.button).Nodup →
    ∃ t u out out',
      runSteps ms.length { s with events := commandsOf (ms.map fun m => .update m.button m.state) } = .next t ∧
      runSteps ns.length { s with events := commandsOf (ns.map fun m => .update m.button m.state) } = .next u ∧
      t.block = u.block ∧ t.stream = s.stream ++ out ∧ u.stream = s.stream ++ out' ∧ out.Perm out') ∧
  (∀ (s : State) (b : Button) (v v' : OnOff), ∃ t u, exec (.update b v) s = .next t ∧ exec (.update b v') t = .next u ∧
    readLevel u.block.latch b = v')

/-- R17, R21, R60, R75: only UPDATE and SAMPLE write `LATCH`; only SAMPLE writes `LAST`; no operation writes the build's parameters, the
environment's events or the refused mark, and none takes back a packet. That the operation's index goes up by one is the model's own
convention (R28, log 5). -/
def Obligations.WhatEachOperationMayWrite : Prop :=
  ∀ (i : Instr) (s : State), ∃ t, exec i s = .next t ∧
    (t.block.latch ≠ s.block.latch → (∃ b v, i = .update b v) ∨ ∃ lv, i = .sample lv) ∧
    (t.block.last ≠ s.block.last → ∃ lv, i = .sample lv) ∧
    t.config = s.config ∧ t.events = s.events ∧ t.refused = s.refused ∧ s.stream <+: t.stream ∧
    t.opIndex = s.opIndex + 1

/-- R25, R72, R99: what an operation does to the registers and which packets it emits depends on the registers and the build alone, not on
what went out before or what became of it. -/
def Obligations.OperationsIgnoreWhatWasEmitted : Prop :=
  ∀ (i : Instr) (s s' : State), s.config = s'.config → s.block = s'.block →
    ∃ t t' out, exec i s = .next t ∧ exec i s' = .next t' ∧ t.block = t'.block ∧
      t.stream = s.stream ++ out ∧ t'.stream = s'.stream ++ out

/-- R99: "A packet dropped downstream is never emitted again by the block." What went out for a Button is in its latch: after an UPDATE of it,
and after a SAMPLE that emitted for it, `LATCH[b]` holds the State delivered. And from every state, over any operations issued one after the
other in which no UPDATE of the Button and no SAMPLE differs from `LATCH[b]` at it (and ENCODE, which is not the Reducer, is not asked for it),
nothing goes out for it and its latch stays. -/
def Obligations.DroppedPacketIsNotEmittedAgain : Prop :=
  (∀ (b : Button) (v : OnOff) (s : State), ∃ t, exec (.update b v) s = .next t ∧ readLevel t.block.latch b = v) ∧
  (∀ (b : Button) (lv : Levels) (s : State), ∃ t out, exec (.sample lv) s = .next t ∧ t.stream = s.stream ++ out ∧
    (out.filter (packetIsOf b) ≠ [] → readLevel t.block.latch b = readLevel lv b)) ∧
  (∀ (b : Button) (v : OnOff) (s : State), readLevel s.block.latch b = v →
    (∃ t, exec (.update b v) s = .next t ∧ t.stream = s.stream) ∧
    (∀ lv : Levels, readLevel lv b = v → ∃ t out, exec (.sample lv) s = .next t ∧ t.stream = s.stream ++ out ∧
      out.filter (packetIsOf b) = [] ∧ readLevel t.block.latch b = v)) ∧
  (∀ (b : Button) (s : State) (ops : List Instr), s.refused = none →
    (∀ v, .update b v ∈ ops → v = readLevel s.block.latch b) →
    (∀ lv, .sample lv ∈ ops → readLevel lv b = readLevel s.block.latch b) →
    (∀ d, .encode b d ∉ ops) →
    ∃ t out, runSteps ops.length { s with events := commandsOf ops } = .next t ∧ t.stream = s.stream ++ out ∧
      out.filter (packetIsOf b) = [] ∧ readLevel t.block.latch b = readLevel s.block.latch b)

end filter

section environment
open Sys2Proof Sys2Proof.Machine

/-- R98: in the Configured state `send` transmits the four bytes in order, otherwise nothing. -/
def Obligations.SendTransmitsOnlyWhenConfigured : Prop :=
  ∀ ps : List Packet, transmitted false ps = [] ∧
    transmitted true ps = ps.flatMap fun p => [p.byte0, p.byte1, p.byte2, p.byte3]

/-- R102: the packets of one operation fit an empty mailbox: with no drop chosen by the environment all of them are kept, in order;
a full mailbox drops the newest. The capacity is the 5 that R102 gives as an example, and that an elective drop is the environment's argument
is the model's own form (log 18). -/
def Obligations.OneOperationFitsAnEmptyMailbox : Prop :=
  (∀ (i : Instr) (s : State), ∃ t out, exec i s = .next t ∧ t.stream = s.stream ++ out ∧
    postAll [] (out.map fun p => (false, p)) = out) ∧
  (∀ (box : List Packet) (drop : Bool) (p : Packet), mailboxCapacity ≤ box.length → post box drop p = box)

end environment

section runs
open Sys2Proof Sys2Proof.Machine

/-- When the next event is a command word that decodes, the step is `exec` of its operation on the run with that event taken; and
`withFetchWord` makes the given word that next event, on a run without the refused mark (R35, R88; the model's own convention, log 15). -/
def Obligations.StepRunsTheDecodedOperation : Prop :=
  (∀ (s : State) (w : Byte) (rest : List Event) (i : Instr), s.refused = none → s.events = .command w :: rest →
    decode w = .ok i → step s = exec i { s with events := rest }) ∧
  (∀ (s : State) (w : Nat) (i : Instr), w < 256 → decode (BitVec.ofNat 8 w) = .ok i →
    step (s.withFetchWord 8 w) = exec i { s with refused := none })

/-- R103, R105: reset writes 0 to both registers and nothing else: no packet, the parameters, and the refused mark unchanged (the operation
index, the model's own, is left to StepKeepsParametersAndEmittedPackets); and a run starts, on whichever build, with both registers 0. -/
def Obligations.ResetWritesBothRegistersOnly : Prop :=
  (∀ s : State, ∃ n, s.assertReset = { s with block := { latch := 0b00000#5, last := 0b00000#5 }, opIndex := n }) ∧
  (∀ (s : State) (rest : List Event), s.refused = none → s.events = .reset :: rest →
    ∃ n, step s = .next { s with events := rest, block := { latch := 0b00000#5, last := 0b00000#5 }, opIndex := n }) ∧
  (∀ (c : Config) (es : List Event), (State.powerOn c es).block = { latch := 0b00000#5, last := 0b00000#5 } ∧
    (State.powerOn c es).config = c)

/-- R22, R104: no Note Off at reset; afterwards `LATCH` and `LAST` are 0, releasing a button is silent and pressing it emits a new Note On, by
UPDATE and by the first SAMPLE, whatever that SAMPLE's other levels are. That the first SAMPLE compares against 0 is the spec's decision D10
(log 13). -/
def Obligations.AfterResetReleaseIsSilentAndPressEmits : Prop :=
  ∀ (s : State) (rest : List Event) (b : Button), s.refused = none → s.events = .reset :: rest →
    ∃ t, step s = .next t ∧ t.stream = s.stream ∧ t.block = { latch := 0b00000#5, last := 0b00000#5 } ∧
      (∃ u, exec (release b) t = .next u ∧ u.stream = t.stream) ∧
      (∀ lv : Levels, readLevel lv b = stateOff → ∃ u out, exec (.sample lv) t = .next u ∧ u.stream = t.stream ++ out ∧
        out.filter (packetIsOf b) = []) ∧
      (∃ u, exec (press b) t = .next u ∧ u.stream = t.stream ++ [encodePacket s.config { button := b, state := stateOn }]) ∧
      (∀ lv : Levels, readLevel lv b = stateOn → ∃ u out, exec (.sample lv) t = .next u ∧ u.stream = t.stream ++ out ∧
        out.filter (packetIsOf b) = [encodePacket s.config { button := b, state := stateOn }])

/-- R106: reset coinciding with an operation: the operation wholly precedes the reset, all its packets emitted, or is wholly discarded,
none of them emitted; both registers are 0 in either case. Which of the two is a free value (log 8). -/
def Obligations.ResetDuringOperationHasTwoOutcomes : Prop :=
  ∀ (s : State) (w : Byte) (rest : List Event) (i : Instr), s.refused = none → s.events = .resetDuring w :: rest →
    decode w = .ok i → ∃ t u, step s = .next t ∧ exec i s = .next u ∧
      t.block = { latch := 0b00000#5, last := 0b00000#5 } ∧ t.config = s.config ∧ t.events = rest ∧ t.refused = none ∧
      (t.stream = u.stream ∨ t.stream = s.stream)

/-- R8, R89: construction refuses exactly the configurations that are not well formed, by name, and starts every other with the offered
values. -/
def Obligations.ConstructionRefusesIllFormedConfigurations : Prop :=
  ∀ (r : RawConfig) (es : List Event),
    ((15 < r.cable ∨ 15 < r.channel) → construct r es = .refused .configIllFormed) ∧
    (r.cable ≤ 15 → r.channel ≤ 15 → ∃ c : Config, c.cable.toNat = r.cable ∧ c.channel.toNat = r.channel ∧
      c.sampleOrder = r.sampleOrder ∧ construct r es = .next (State.powerOn c es))

/-- R89: which command words and issues the step refuses, and which configurations construction refuses, each under which name; and neither
uses another reason. -/
def Obligations.RefusalReasonsAreTheClosedList : Prop :=
  (∀ (s : State) (w : Byte) (rest : List Event), s.refused = none → s.events = .command w :: rest →
    (3 ≤ (w.extractLsb' 5 3).toNat → step s = .refused .reservedOpcode) ∧
    ((w.extractLsb' 5 3).toNat ≤ 1 → w.getLsbD 4 = true → step s = .refused .reservedBitSet) ∧
    ((w.extractLsb' 5 3).toNat ≤ 1 → w.getLsbD 4 = false → 4 < (w.extractLsb' 0 3).toNat →
      step s = .refused .buttonOutOfRange)) ∧
  (∀ (s : State) (w v : Byte) (i j : Instr) (rest : List Event), s.refused = none → s.events = .overlapping w v :: rest →
    decode w = .ok i → decode v = .ok j → step s = .refused .overlappingIssue) ∧
  (∀ (s : State) (r : Refusal), s.refused = none → step s = .refused r →
    r = .reservedOpcode ∨ r = .reservedBitSet ∨ r = .buttonOutOfRange ∨ r = .overlappingIssue) ∧
  (∀ (c : RawConfig) (es : List Event), construct c es = .refused .configIllFormed ↔ (15 < c.cable ∨ 15 < c.channel)) ∧
  (∀ (c : RawConfig) (es : List Event) (r : Refusal), construct c es = .refused r → r = .configIllFormed)

/-- R88: a refused command word: in hardware a no-operation, no state written, no packet, the next event goes on; in the model a refusal
that names the reason, and the run's refused mark is set and nothing else changes (R10). That the mark holds the reason and is set by
`advance`, on the state the refused step began in, is the model's own reading (log 7). -/
def Obligations.RefusedWordInHardwareAndInTheModel : Prop :=
  ∀ (s : State) (w : Byte) (rest : List Event) (d : DecodeRefusal), s.refused = none → s.events = .command w :: rest →
    decode w = .error d →
    (∃ t, hardwareStep s = .next t ∧ t.block = s.block ∧ t.stream = s.stream ∧ t.config = s.config ∧ t.events = rest) ∧
    step s = .refused (refusalOf d) ∧ advance s = { s with refused := some (refusalOf d) }

/-- R106, R108: the refusals that rest on the model's own choices. An overlapping issue is refused as OverlappingIssue whatever its two words
are, before either is decoded (log 10); a word that is no operation is refused by its reason also when a reset coincides with it (log 9),
where the hardware has the reset alone (R88). Each sets the run's mark with the reason and changes nothing else (log 7). -/
def Obligations.OverlapsAndRefusedWordsDuringResetAreRefused : Prop :=
  (∀ (s : State) (w v : Byte) (rest : List Event), s.refused = none → s.events = .overlapping w v :: rest →
    step s = .refused .overlappingIssue ∧ advance s = { s with refused := some .overlappingIssue } ∧
    (advance s).observation = none) ∧
  (∀ (s : State) (w : Byte) (rest : List Event) (d : DecodeRefusal), s.refused = none → s.events = .resetDuring w :: rest →
    decode w = .error d →
    step s = .refused (refusalOf d) ∧ advance s = { s with refused := some (refusalOf d) } ∧ (advance s).observation = none ∧
    ∃ t, hardwareStep s = .next t ∧ t.block = { latch := 0b00000#5, last := 0b00000#5 } ∧ t.stream = s.stream ∧
      t.config = s.config ∧ t.events = rest)

/-- R91, R114: the refused mark is never cleared, reset included; a marked run takes no further step and has no observation. That a further
step answers the recorded reason is the model's own reading (log 7). -/
def Obligations.RefusedMarkIsNeverCleared : Prop :=
  ∀ (s : State) (r : Refusal), s.refused = some r →
    s.assertReset.refused = some r ∧ step s = .refused r ∧ s.observation = none ∧ ∀ n, advanceFor n s = s

/-- R100: when the environment has halted the run is stuck: no further step, and not final. That the halt is an event of the run's
list is the model's own form (log 11). -/
def Obligations.HaltedEnvironmentIsStuckNotFinal : Prop :=
  ∀ (s : State) (rest : List Event), s.refused = none → s.events = .halt :: rest →
    (∀ n, runSteps (n + 1) s = .fault .environmentHalted) ∧ (∀ n, advanceFor n s = s) ∧ s.isFinal = false ∧ s.observation = none

/-- R113: a run of `n` events that keep the environment's duties takes exactly `n` steps: it completes, every event taken, no sooner. -/
def Obligations.RunOfDutifulEventsTakesThatManySteps : Prop :=
  ∀ (s : State) (n : Nat), s.refused = none → (∀ e ∈ s.events, e.isDutiful = true) → n ≤ s.events.length →
    ∃ t, runSteps n s = .next t ∧ t.events = s.events.drop n ∧ t.refused = none ∧ (t.isFinal = true ↔ n = s.events.length)

/-- R23, R24, R35, R103: no step writes the build's parameters or takes back a packet; each step takes exactly one event. That a step which
takes a reset leaves the operation index, and any other goes on to the next index, is the model's own convention (R28, log 5). -/
def Obligations.StepKeepsParametersAndEmittedPackets : Prop :=
  ∀ (s t : State), step s = .next t →
    t.config = s.config ∧ s.stream <+: t.stream ∧ t.events = s.events.tail ∧ t.refused = none ∧
    t.opIndex = if s.events.head? = some .reset then s.opIndex else s.opIndex + 1

/-- R48: an invariant of every step: only the two kinds of packets, with the build's cable and channel, ever go out. -/
def Obligations.StepKeepsTheStreamWellFormed : Prop :=
  ∀ (s t : State), s.streamWellFormed → step s = .next t → t.streamWellFormed

/-- R70, R73: an invariant of every step of the transition filter: for each Button the output stream alternates Note On and Note Off,
Note On first, and its last direction is the Button's latch. -/
def Obligations.LatchTracksTheOutputStream : Prop :=
  ∀ (s t : State), s.latchTracksStream → (∀ e ∈ s.events, e.isFilterOperation = true) → step s = .next t →
    t.latchTracksStream ∧ ∀ e ∈ t.events, e.isFilterOperation = true

/-- R103, R105, R114: the two invariants above hold at the start of every run, where nothing has been emitted (log 14). -/
def Obligations.InvariantsHoldAtTheStart : Prop :=
  ∀ (c : Config) (es : List Event), (State.powerOn c es).streamWellFormed ∧ (State.powerOn c es).latchTracksStream ∧
    (State.powerOn c es).block.last = (State.powerOn c es).block.latch

/-- R83: from every state in which the registers agree, the state after reset among them, `LAST = LATCH` holds after any number of steps
in which no UPDATE is issued. -/
def Obligations.LastEqualsLatchWithoutUpdates : Prop :=
  ∀ (n : Nat) (s t : State), s.block.last = s.block.latch → (∀ e ∈ s.events, e.isUpdate = false) →
    runSteps n s = .next t → t.block.last = t.block.latch

/-- R86, by UPDATE: from the start of a run, any interleaving of ten UPDATEs in which each Button is driven On and then Off returns
`LATCH` to 0 and emits exactly 10 packets, one for each UPDATE in order. -/
def Obligations.RoundTripByUpdates : Prop :=
  ∀ (c : Config) (ms : List Message),
    (∀ b : Button, ms.filter (fun m => decide (m.button = b)) =
      [{ button := b, state := stateOn }, { button := b, state := stateOff }]) →
    ∃ t, runSteps 10 (State.powerOn c (commandsOf (ms.map fun m => .update m.button m.state))) = .next t ∧
      t.block.latch = 0b00000#5 ∧ t.stream = ms.map (encodePacket c) ∧ t.stream.length = 10 ∧ t.isFinal = true

/-- R86, by SAMPLE: from the start of a run, any SAMPLEs in which each Button's level is Off for a while (perhaps not at all), then On,
then Off to the end, returns both registers to 0 and emits exactly 10 packets: for each Button one Note On and then one Note Off. -/
def Obligations.RoundTripBySamples : Prop :=
  ∀ (c : Config) (lvs : List Levels),
    (∀ b : Button, ∃ i j k, lvs.map (fun lv => readLevel lv b) =
      List.replicate i stateOff ++ (List.replicate (j + 1) stateOn ++ List.replicate (k + 1) stateOff)) →
    ∃ t, runSteps lvs.length (State.powerOn c (commandsOf (lvs.map fun lv => .sample lv))) = .next t ∧
      t.block = { latch := 0b00000#5, last := 0b00000#5 } ∧ t.stream.length = 10 ∧ t.isFinal = true ∧
      ∀ b : Button, t.stream.filter (packetIsOf b) =
        [encodePacket c { button := b, state := stateOn }, encodePacket c { button := b, state := stateOff }]

/-- R88: the model is a refinement of the hardware: whatever a run of the model does without being refused, the hardware does too. The two
runs are compared with the same outcome wherever a reset coincides with an operation: both read the same free value at the same index, the
model's own choice (log 8), where R106 leaves a hardware either outcome. -/
def Obligations.ModelRunsAreHardwareRuns : Prop :=
  ∀ (n : Nat) (s t : State), runSteps n s = .next t → hardwareRunSteps n s = .next t

end runs
end

