-- ==== Sys2Proof/Laws/Registers.lean ====
section
/-! SUPPORT. The registers' read-after-write laws and the spec lemmas of the shared operations of the Reducer and the Sampler. -/

namespace Sys2Proof.Machine

/-- Reading a bit after a write of a bit, the same or another. -/
theorem readLevel_writeLevel (v : Levels) (b i : Button) (x : OnOff) :
    readLevel (writeLevel v b x) i = if i = b then x else readLevel v i := by
  revert v b i x; decide

@[simp] theorem readLevel_writeLevel_same (v : Levels) (b : Button) (x : OnOff) :
    readLevel (writeLevel v b x) b = x := by simp [readLevel_writeLevel]

theorem readLevel_writeLevel_other (v : Levels) {b i : Button} (h : i ≠ b) (x : OnOff) :
    readLevel (writeLevel v b x) i = readLevel v i := by simp [readLevel_writeLevel, h]

/-- Two vectors with the same 5 bits are the same vector. -/
theorem levels_ext {v w : Levels} (h : ∀ b : Button, readLevel v b = readLevel w b) : v = w := by
  apply BitVec.eq_of_getLsbD_eq
  intro i hi
  exact h ⟨i, hi⟩

@[simp] theorem writeLevel_readLevel (v : Levels) (b : Button) : writeLevel v b (readLevel v b) = v :=
  levels_ext fun i => by rw [readLevel_writeLevel]; split <;> simp_all

/-- All a reduction can do: nothing, or one bit written and one packet (R69, R70). -/
theorem reduce_cases (c : Config) (latch : Levels) (m : Message) :
    (readLevel latch m.button = m.state ∧ reduce c latch m = (latch, .nothing)) ∨
    (readLevel latch m.button ≠ m.state ∧
      reduce c latch m = (writeLevel latch m.button m.state, .midi (encodePacket c m))) := by
  unfold reduce
  split
  · exact .inl ⟨‹_›, rfl⟩
  · exact .inr ⟨‹_›, rfl⟩

/-- A reduction leaves the Message's State in the Message's entry, whether it wrote it or found it there. -/
theorem reduce_latch (c : Config) (latch : Levels) (m : Message) :
    (reduce c latch m).1 = writeLevel latch m.button m.state := by
  obtain ⟨h, hr⟩ | ⟨-, hr⟩ := reduce_cases c latch m
  · rw [hr, ← h, writeLevel_readLevel]
  · rw [hr]

/-- A reduction emits the Message's packet exactly when the State differs (R70). -/
theorem reduce_output (c : Config) (latch : Levels) (m : Message) :
    effectOutput (reduce c latch m).2 = if readLevel latch m.button = m.state then [] else [encodePacket c m] := by
  unfold reduce
  split <;> rfl

/-- One turn of SAMPLE's loop leaves the level in `LAST[i]` and touches no other bit of `LAST`. -/
theorem sampleButton_last (c : Config) (lv : Levels) (i : Button) (blk : BlockState) :
    (sampleButton c lv i blk).1.last = writeLevel blk.last i (levelOperand lv i) := by
  unfold sampleButton
  split
  · rfl
  · rename_i h
    rw [not_not.mp h, writeLevel_readLevel]

end Sys2Proof.Machine
end

