-- ==== Sys2Proof/Laws/State.lean ====
section
/-! SUPPORT. What each shared operation leaves in each field of State. -/

namespace Sys2Proof.Machine

section complete
variable (s : State) (blk : BlockState) (out : List Packet)

@[simp] theorem State.complete_config : (s.complete blk out).config = s.config := rfl
@[simp] theorem State.complete_block : (s.complete blk out).block = blk := rfl
@[simp] theorem State.complete_events : (s.complete blk out).events = s.events := rfl
@[simp] theorem State.complete_stream : (s.complete blk out).stream = s.stream ++ out := rfl
@[simp] theorem State.complete_opIndex : (s.complete blk out).opIndex = s.opIndex + 1 := rfl
@[simp] theorem State.complete_refused : (s.complete blk out).refused = s.refused := rfl
end complete

section discard
variable (s : State)

@[simp] theorem State.discard_config : s.discard.config = s.config := rfl
@[simp] theorem State.discard_block : s.discard.block = s.block := rfl
@[simp] theorem State.discard_events : s.discard.events = s.events := rfl
@[simp] theorem State.discard_stream : s.discard.stream = s.stream := rfl
@[simp] theorem State.discard_opIndex : s.discard.opIndex = s.opIndex + 1 := rfl
@[simp] theorem State.discard_refused : s.discard.refused = s.refused := rfl
end discard

section assertReset
variable (s : State)

@[simp] theorem State.assertReset_config : s.assertReset.config = s.config := rfl
@[simp] theorem State.assertReset_block : s.assertReset.block = .allOff := rfl
@[simp] theorem State.assertReset_events : s.assertReset.events = s.events := rfl
@[simp] theorem State.assertReset_stream : s.assertReset.stream = s.stream := rfl
@[simp] theorem State.assertReset_opIndex : s.assertReset.opIndex = s.opIndex := rfl
@[simp] theorem State.assertReset_refused : s.assertReset.refused = s.refused := rfl
end assertReset

section dropEvent
variable (s : State)

@[simp] theorem State.dropEvent_config : s.dropEvent.config = s.config := rfl
@[simp] theorem State.dropEvent_block : s.dropEvent.block = s.block := rfl
@[simp] theorem State.dropEvent_events : s.dropEvent.events = s.events.tail := rfl
@[simp] theorem State.dropEvent_stream : s.dropEvent.stream = s.stream := rfl
@[simp] theorem State.dropEvent_opIndex : s.dropEvent.opIndex = s.opIndex := rfl
@[simp] theorem State.dropEvent_refused : s.dropEvent.refused = s.refused := rfl
end dropEvent

section powerOn
variable (c : Config) (es : List Event)

@[simp] theorem State.powerOn_config : (State.powerOn c es).config = c := rfl
@[simp] theorem State.powerOn_block : (State.powerOn c es).block = .allOff := rfl
@[simp] theorem State.powerOn_events : (State.powerOn c es).events = es := rfl
@[simp] theorem State.powerOn_stream : (State.powerOn c es).stream = [] := rfl
@[simp] theorem State.powerOn_opIndex : (State.powerOn c es).opIndex = 0 := rfl
@[simp] theorem State.powerOn_refused : (State.powerOn c es).refused = none := rfl
end powerOn

section marks
variable (s : State) (w : Byte) (r : Refusal)

@[simp] theorem State.markRefused_config : (s.markRefused r).config = s.config := rfl
@[simp] theorem State.markRefused_block : (s.markRefused r).block = s.block := rfl
@[simp] theorem State.markRefused_events : (s.markRefused r).events = s.events := rfl
@[simp] theorem State.markRefused_stream : (s.markRefused r).stream = s.stream := rfl
@[simp] theorem State.markRefused_opIndex : (s.markRefused r).opIndex = s.opIndex := rfl
@[simp] theorem State.markRefused_refused : (s.markRefused r).refused = some r := rfl

@[simp] theorem State.pushCommand_config : (s.pushCommand w).config = s.config := rfl
@[simp] theorem State.pushCommand_block : (s.pushCommand w).block = s.block := rfl
@[simp] theorem State.pushCommand_events : (s.pushCommand w).events = .command w :: s.events := rfl
@[simp] theorem State.pushCommand_stream : (s.pushCommand w).stream = s.stream := rfl
@[simp] theorem State.pushCommand_opIndex : (s.pushCommand w).opIndex = s.opIndex := rfl
@[simp] theorem State.pushCommand_refused : (s.pushCommand w).refused = none := rfl
end marks

end Sys2Proof.Machine
end

