-- ==== Sys2Proof/Laws/Dispatch.lean ====
section
/-! SUPPORT. What `exec` and the step can do, said once: each operation completes, and the step answers by its next event. -/

namespace Sys2Proof.Machine

@[simp] theorem exec_update (b : Button) (v : OnOff) (s : State) : exec (.update b v) s = execUpdate b v s := rfl
@[simp] theorem exec_encode (b : Button) (d : OnOff) (s : State) : exec (.encode b d) s = execEncode b d s := rfl
@[simp] theorem exec_sample (lv : Levels) (s : State) : exec (.sample lv) s = execSample lv s := rfl

/-- An operation's registers after it and its packets, as one function of the registers before it and the build. -/
def effectOf (c : Config) (i : Instr) (blk : BlockState) : BlockState × List Packet :=
  match i with
  | .update b v =>
    ({ latch := (reduce c blk.latch (messageOperand b v)).1, last := blk.last },
      effectOutput (reduce c blk.latch (messageOperand b v)).2)
  | .encode b d => (blk, [encodePacket c (messageOperand b d)])
  | .sample lv => sampleLoop c lv c.sampleOrder.toList blk

/-- Every operation completes with its effect (R90, R113): `exec` has no other outcome. -/
theorem exec_eq_complete (i : Instr) (s : State) :
    exec i s = .next (s.complete (effectOf s.config i s.block).1 (effectOf s.config i s.block).2) := by
  cases i <;> rfl

theorem step_of_refused {s : State} {r : Refusal} (h : s.refused = some r) : step s = .refused r := by
  simp [step, h]

theorem step_of_no_event {s : State} (hr : s.refused = none) (he : s.events = []) : step s = .fault .endOfRun := by
  simp [step, hr, State.nextEvent, he]

theorem step_of_event {s : State} {e : Event} {rest : List Event} (hr : s.refused = none) (he : s.events = e :: rest) :
    step s = respond e s.dropEvent := by
  simp [step, hr, State.nextEvent, he]

/-- What an answer to an event that is a next state did: an operation, a reset, or the two together. -/
theorem respond_next_cases {e : Event} {s t : State} (h : respond e s = .next t) :
    (∃ w i, e = .command w ∧ decode w = .ok i ∧ exec i s = .next t) ∨
    (e = .reset ∧ t = s.assertReset) ∨
    (∃ w i u, e = .resetDuring w ∧ decode w = .ok i ∧ (exec i s = .next u ∨ u = s.discard) ∧ t = u.assertReset) := by
  cases e with
  | command w =>
    simp only [respond, issue] at h
    split at h
    · exact .inl ⟨w, _, rfl, ‹_›, h⟩
    · cases h
  | reset => cases h; exact .inr (.inl ⟨rfl, rfl⟩)
  | resetDuring w =>
    simp only [respond, issueDuringReset] at h
    split at h
    · refine .inr (.inr ?_)
      split at h
      · rw [exec_eq_complete, thenReset] at h
        cases h
        exact ⟨w, _, _, rfl, ‹_›, .inl (exec_eq_complete _ _), rfl⟩
      · cases h
        exact ⟨w, _, _, rfl, ‹_›, .inr rfl, rfl⟩
    · cases h
  | overlapping a b => cases h
  | halt => cases h

/-- A step that answers a next state took one event and answered it. -/
theorem step_next_cases {s t : State} (h : step s = .next t) :
    s.refused = none ∧ ∃ e rest, s.events = e :: rest ∧ respond e s.dropEvent = .next t := by
  cases hr : s.refused with
  | some r => rw [step_of_refused hr] at h; cases h
  | none =>
    cases he : s.events with
    | nil => rw [step_of_no_event hr he] at h; cases h
    | cons e rest => exact ⟨rfl, e, rest, rfl, (step_of_event hr he) ▸ h⟩

end Sys2Proof.Machine
end

