-- ==== Sys2Proof/Laws/PerInstr.lean ====
section
/-! SUPPORT. One lemma for each operation: its command word is one the opcode map takes. -/

namespace Sys2Proof.Laws.WordFitsOpcodeMap

/-- The operation's command word has its row's fixed bits and meets its row's constraint (R53). -/
def Statement (i : Instr) : Prop := commandWordWellFormed (encode i) = true

theorem update (b : Button) (s : OnOff) : Statement (.update b s) := by
  revert b s; unfold Statement; decide

theorem encode (b : Button) (s : OnOff) : Statement (.encode b s) := by
  revert b s; unfold Statement; decide

theorem sample (lv : Levels) : Statement (.sample lv) := by
  revert lv; unfold Statement; decide

end Sys2Proof.Laws.WordFitsOpcodeMap
end

