-- ==== Sys2Proof/Laws/Sampler.lean ====
section
/-! SUPPORT. What SAMPLE's loop and a list of reductions do over any list of distinct Buttons, said once for the provers. -/

namespace Sys2Proof

/-- Every Button stands in every `SAMPLE_ORDER`. -/
theorem SampleOrder.mem_toList (o : SampleOrder) (b : Button) : b ∈ o.toList :=
  o.isPermutation.mem_iff.mpr (by revert b; decide)

/-- No Button stands in a `SAMPLE_ORDER` twice. -/
theorem SampleOrder.nodup_toList (o : SampleOrder) : o.toList.Nodup := o.isPermutation.nodup_iff.mpr (by decide)

/-- A `SAMPLE_ORDER` has five entries. -/
theorem SampleOrder.length_toList (o : SampleOrder) : o.toList.length = 5 := o.isPermutation.length_eq

end Sys2Proof

namespace Sys2Proof.Machine

/-- The packets a list of Buttons emits under a level vector: those whose level differs from both registers. -/
def changedBoth (lv : Levels) (blk : BlockState) (i : Button) : Bool :=
  decide (readLevel lv i ≠ readLevel blk.last i ∧ readLevel blk.latch i ≠ readLevel lv i)

/-- One turn of the loop leaves every other Button's bits as they were. -/
theorem sampleButton_other (c : Config) (lv : Levels) {i j : Button} (h : j ≠ i) (blk : BlockState) :
    readLevel (sampleButton c lv i blk).1.latch j = readLevel blk.latch j ∧
      readLevel (sampleButton c lv i blk).1.last j = readLevel blk.last j := by
  unfold sampleButton
  split
  · simp [reduce_latch, sampledMessage, readLevel_writeLevel, h]
  · exact ⟨rfl, rfl⟩

/-- One turn of the loop, at its own Button's latch. -/
theorem sampleButton_same (c : Config) (lv : Levels) (i : Button) (blk : BlockState) :
    readLevel (sampleButton c lv i blk).1.latch i =
      if readLevel lv i ≠ readLevel blk.last i then readLevel lv i else readLevel blk.latch i := by
  by_cases h : readLevel lv i = readLevel blk.last i <;>
    simp [sampleButton, levelOperand, sampledMessage, reduce_latch, h]

/-- One turn of the loop emits its Button's packet exactly when the level differs from both registers. -/
theorem sampleButton_output (c : Config) (lv : Levels) (i : Button) (blk : BlockState) :
    (sampleButton c lv i blk).2 =
      if changedBoth lv blk i then [encodePacket c { button := i, state := readLevel lv i }] else [] := by
  by_cases h : readLevel lv i = readLevel blk.last i
  · simp [sampleButton, levelOperand, changedBoth, h]
  · by_cases h' : readLevel blk.latch i = readLevel lv i <;>
      simp [sampleButton, levelOperand, changedBoth, sampledMessage, reduce_output, h, h']

/-- The loop over any list of distinct Buttons: each Button's bits after it, and the packets in the list's order. -/
theorem sampleLoop_spec (c : Config) (lv : Levels) (order : List Button) (h : order.Nodup) (blk : BlockState) :
    (∀ j, readLevel (sampleLoop c lv order blk).1.last j = if j ∈ order then readLevel lv j else readLevel blk.last j) ∧
    (∀ j, readLevel (sampleLoop c lv order blk).1.latch j =
      if j ∈ order ∧ readLevel lv j ≠ readLevel blk.last j then readLevel lv j else readLevel blk.latch j) ∧
    (sampleLoop c lv order blk).2 =
      (order.filter (changedBoth lv blk)).map fun i => encodePacket c { button := i, state := readLevel lv i } := by
  induction order generalizing blk with
  | nil => simp [sampleLoop]
  | cons i rest ih =>
    obtain ⟨hi, hrest⟩ := List.nodup_cons.mp h
    obtain ⟨ihLast, ihLatch, ihOut⟩ := ih hrest (sampleButton c lv i blk).1
    refine ⟨fun j => ?_, fun j => ?_, ?_⟩
    · rw [sampleLoop, ihLast, sampleButton_last, readLevel_writeLevel]
      by_cases hj : j = i <;> simp [hj, hi, levelOperand]
    · rw [sampleLoop, ihLatch]
      by_cases hj : j = i
      · subst hj
        simp [hi, sampleButton_same]
      · simp [hj, sampleButton_other c lv hj blk]
    · have hsame : rest.filter (changedBoth lv (sampleButton c lv i blk).1) = rest.filter (changedBoth lv blk) :=
        List.filter_congr fun j hj => by
          have hne : j ≠ i := fun e => hi (e ▸ hj)
          simp [changedBoth, sampleButton_other c lv hne blk]
      rw [sampleLoop, ihOut, hsame, sampleButton_output, List.filter_cons]
      split <;> rfl

/-- A list of Messages of distinct Buttons: each Button's latch after it, and the packets of the Messages that differ, in order. -/
theorem reduceAll_spec (c : Config) (ms : List Message) (h : (ms.map Message.button).Nodup) (latch : Levels) :
    (∀ m ∈ ms, readLevel (reduceAll c ms latch).1 m.button = m.state) ∧
    (∀ b, b ∉ ms.map Message.button → readLevel (reduceAll c ms latch).1 b = readLevel latch b) ∧
    (reduceAll c ms latch).2 =
      (ms.filter fun m => decide (readLevel latch m.button ≠ m.state)).map (encodePacket c) := by
  induction ms generalizing latch with
  | nil => simp [reduceAll]
  | cons m rest ih =>
    rw [List.map_cons] at h
    obtain ⟨hm, hrest⟩ := List.nodup_cons.mp h
    obtain ⟨ihIn, ihOut, ihPackets⟩ := ih hrest (reduce c latch m).1
    refine ⟨fun n hn => ?_, fun b hb => ?_, ?_⟩
    · rcases List.mem_cons.mp hn with rfl | hn
      · rw [reduceAll, ihOut _ hm, reduce_latch, readLevel_writeLevel_same]
      · exact ihIn n hn
    · rw [List.map_cons, List.mem_cons, not_or] at hb
      rw [reduceAll, ihOut b hb.2, reduce_latch, readLevel_writeLevel_other _ hb.1]
    · have hsame : (rest.filter fun n => decide (readLevel (reduce c latch m).1 n.button ≠ n.state)) =
          rest.filter fun n => decide (readLevel latch n.button ≠ n.state) :=
        List.filter_congr fun n hn => by
          have hne : n.button ≠ m.button := fun e => hm (e ▸ List.mem_map_of_mem hn)
          rw [reduce_latch, readLevel_writeLevel_other _ hne]
      rw [reduceAll, ihPackets, hsame, reduce_output, List.filter_cons]
      by_cases h' : readLevel latch m.button = m.state <;> simp [h']

end Sys2Proof.Machine
end

