-- ==== Sys2Proof/Tests/Slice0.lean ====
section
/-! SUPPORT. Tests. Expected values are those of spec/95_test_vectors.md (the vector is named), or written out from the encoding rules
R50, R51; and one witness for each statement that has hypotheses. -/

namespace Sys2Proof.Tests
open Sys2Proof Sys2Proof.Machine

/-- A run in a given state, on a given build, with the given events to come. -/
def testState (c : Config) (latch last : Levels) (events : List Event) : State :=
  { State.powerOn c events with block := { latch := latch, last := last } }

/-- The build of the spec's vectors: cable 0, channel 0, ascending order. -/
def plainBuild : Config := { cable := 0, channel := 0, sampleOrder := .ascending }

/-- The registers and the output stream of a next state. -/
def shown (o : Host.Outcome State Fault Refusal) : Option (BlockState × List (List Byte)) :=
  match o with
  | .next t => some (t.block, t.stream.map packetBytes)
  | .fault _ => none
  | .refused _ => none

/-- The reason of a refusal. -/
def refusalShown (o : Host.Outcome State Fault Refusal) : Option Refusal :=
  match o with
  | .refused r => some r
  | .next _ => none
  | .fault _ => none

/-- The kind of a fault. -/
def faultShown (o : Host.Outcome State Fault Refusal) : Option Fault :=
  match o with
  | .fault f => some f
  | .next _ => none
  | .refused _ => none

/-! ## Well-formedness: an ill-formed term for each check -/

theorem test_wellFormed_reservedOpcode : commandWordWellFormed 0x60#8 = false := by decide
theorem test_wellFormed_reservedBit : commandWordWellFormed 0x10#8 = false := by decide
theorem test_wellFormed_button : commandWordWellFormed 0x05#8 = false := by decide
theorem test_wellFormed_topButton : commandWordWellFormed 0x2C#8 = true := by decide
theorem test_wellFormed_cable : RawConfig.cableFits { cable := 16, channel := 15, sampleOrder := .ascending } = false := by decide
theorem test_wellFormed_channel : RawConfig.channelFits { cable := 15, channel := 16, sampleOrder := .ascending } = false := by
  decide
theorem test_wellFormed_config : RawConfig.wellFormed { cable := 15, channel := 15, sampleOrder := .ascending } = true := by decide
theorem test_sampleOrder_noRepeat : ¬ List.Perm [0, 1, 2, 3, 3] ([0, 1, 2, 3, 4] : List Button) := by decide

/-! ## Decoding: each operation's word written out bit by bit from R50, R51; refusals T-D4 to T-D11 -/

theorem test_decode_update : decode 0b000_0_1_100#8 = .ok (.update 4 stateOn) := by decide
theorem test_decode_encode : decode 0b001_0_0_010#8 = .ok (.encode 2 stateOff) := by decide
theorem test_decode_sample : decode 0b010_00101#8 = .ok (.sample 0b00101#5) := by decide
theorem test_encode_update : encode (.update 0 stateOn) = 0x08#8 := by decide
theorem test_encode_encode : encode (.encode 2 stateOn) = 0x2A#8 := by decide
theorem test_encode_sample : encode (.sample 0b00101#5) = 0x45#8 := by decide
theorem test_decode_T_D5 : decode 0x07#8 = .error .buttonOutOfRange := by decide
theorem test_decode_T_D7 : decode 0x15#8 = .error .reservedBitSet := by decide
theorem test_decode_T_D8 : decode 0x3F#8 = .error .reservedBitSet := by decide
theorem test_decode_T_D11 : decode 0xFF#8 = .error .reservedOpcode := by decide
theorem test_tableWord : decodeTableWord 8 0x5F = some (.sample 0b11111#5) := by decide
theorem test_assemble : assemble "SAMPLE 0b00101" = some 0x45#8 := by decide

/-! ## The operations -/

/-- T-U7: other entries untouched. -/
theorem test_update_T_U7 : shown (exec (.update 2 stateOn) (testState plainBuild 0b01010#5 0#5 [])) =
    some ({ latch := 0b01110#5, last := 0#5 }, [[0x09#8, 0x90#8, 0x3E#8, 0x7F#8]]) := by decide

/-- T-U3: a repeat emits nothing. -/
theorem test_update_T_U3 : shown (exec (.update 4 stateOn) (testState plainBuild 0b10000#5 0#5 [])) =
    some ({ latch := 0b10000#5, last := 0#5 }, []) := by decide

/-- T-E4 step 4: ENCODE of Off while the latch is On, the latch not written. -/
theorem test_encode_T_E4 : shown (exec (.encode 0 stateOff) (testState plainBuild 0b00001#5 0#5 [])) =
    some ({ latch := 0b00001#5, last := 0#5 }, [[0x08#8, 0x80#8, 0x3C#8, 0x7F#8]]) := by decide

/-- T-E3, Button 5 Off: the top cable nibble, channel 9. -/
theorem test_encode_T_E3 :
    packetBytes (encodePacket { cable := 15, channel := 9, sampleOrder := .ascending } { button := 4, state := stateOff }) =
      [0xF8#8, 0x89#8, 0x40#8, 0x7F#8] := by decide

/-- T-S5d: mixed On and Off in one SAMPLE, descending order. -/
theorem test_sample_T_S5d :
    shown (exec (.sample 0b10110#5) (testState { plainBuild with sampleOrder := .descending } 0b00011#5 0b00011#5 [])) =
      some ({ latch := 0b10110#5, last := 0b10110#5 },
        [[0x09#8, 0x90#8, 0x40#8, 0x7F#8], [0x09#8, 0x90#8, 0x3E#8, 0x7F#8], [0x08#8, 0x80#8, 0x3C#8, 0x7F#8]]) := by decide

/-- T-S6, its second SAMPLE: a change to a level equal to LATCH reduces to Nothing. -/
theorem test_sample_T_S6 : shown (exec (.sample 0b00001#5) (testState plainBuild 0b00001#5 0b00000#5 [])) =
    some ({ latch := 0b00001#5, last := 0b00001#5 }, []) := by decide

/-- T-E5: the word view. -/
theorem test_packetWord_T_E5 : packetWord { byte0 := 0x09#8, byte1 := 0x90#8, byte2 := 0x3C#8, byte3 := 0x7F#8 } =
    0x7F3C9009#32 := by decide

/-! ## Events -/

/-- T-R1: reset with buttons On emits nothing. -/
theorem test_reset_T_R1 : shown (step (testState plainBuild 0b10110#5 0b10110#5 [.reset])) =
    some ({ latch := 0#5, last := 0#5 }, []) := by decide

/-- P4: the reserved word ends the model's run and is a no-operation of the hardware. -/
theorem test_refused_P4 : refusalShown (step (testState plainBuild 0b00010#5 0#5 [.command 0x60#8])) = some .reservedOpcode ∧
    shown (hardwareStep (testState plainBuild 0b00010#5 0#5 [.command 0x60#8])) = some ({ latch := 0b00010#5, last := 0#5 }, []) := by
  decide

theorem test_refused_duringReset :
    refusalShown (step (testState plainBuild 0b00010#5 0#5 [.resetDuring 0x05#8])) = some .buttonOutOfRange := by decide

theorem test_marked_run_has_no_observation : (advance (testState plainBuild 0#5 0#5 [.command 0x60#8])).observation = none := by decide

theorem test_overlapping : refusalShown (step (testState plainBuild 0#5 0#5 [.overlapping 0x08#8 0x09#8])) = some .overlappingIssue := by
  decide

theorem test_halt : faultShown (step (testState plainBuild 0#5 0#5 [.halt])) = some .environmentHalted := by decide

theorem test_endOfRun : faultShown (step State.reset) = some .endOfRun := by decide

theorem test_construct : refusalShown (construct { cable := 0, channel := 16, sampleOrder := .ascending } []) = some .configIllFormed := by
  decide

/-- The first operation after reset runs, whatever the open parameters are. -/
theorem test_fetchWord_runs : (shown (step (State.reset.withFetchWord 8 0x41))).isSome = true := by decide

/-- W-A: not Configured, no byte is transmitted; W-B: Configured, the four bytes are. -/
theorem test_send : transmitted false [encodePacket plainBuild { button := 2, state := stateOn }] = [] ∧
    transmitted true [encodePacket plainBuild { button := 0, state := stateOn }] = [0x09#8, 0x90#8, 0x3C#8, 0x7F#8] := by decide

theorem test_mailbox : (postAll [] ((detect [0, 1, 2, 3, 4] 0#5 0b11111#5).map fun m => (false, encodePacket plainBuild m))).length = 5 ∧
    post [encodePacket plainBuild { button := 0, state := stateOn }] true (encodePacket plainBuild { button := 1, state := stateOn }) =
      [encodePacket plainBuild { button := 0, state := stateOn }] := by decide

/-! ## Witnesses: for each statement with hypotheses, a concrete state and operands that meet them together -/

/-- DecoderFollowsTheOperationField: a word for each clause at a boundary of its range. -/
theorem witness_decoderClauses :
    ((0x10#8 : Byte).extractLsb' 5 3 = 0b000#3 ∧ (0x10#8 : Byte).getLsbD 4 = true) ∧
    ((0x25#8 : Byte).extractLsb' 5 3 = 0b001#3 ∧ (0x25#8 : Byte).getLsbD 4 = false ∧ 4 < ((0x25#8 : Byte).extractLsb' 0 3).toNat) ∧
    ((0x04#8 : Byte).extractLsb' 5 3 = 0b000#3 ∧ (0x04#8 : Byte).getLsbD 4 = false ∧ ((0x04#8 : Byte).extractLsb' 0 3).toNat ≤ 4) ∧
    ((0x2C#8 : Byte).extractLsb' 5 3 = 0b001#3 ∧ (0x2C#8 : Byte).getLsbD 4 = false ∧ ((0x2C#8 : Byte).extractLsb' 0 3).toNat ≤ 4) ∧
    (0x5F#8 : Byte).extractLsb' 5 3 = 0b010#3 ∧ 3 ≤ ((0x60#8 : Byte).extractLsb' 5 3).toNat := by decide

/-- EncodeOfDecodeIsTheWord. -/
theorem witness_decodeOk : decode 0x2C#8 = .ok (.encode 4 stateOn) := by decide

/-- EncodeOperation, UpdateOperation, SampleOperation: the words of each clause. -/
theorem witness_operationWords :
    ((0x24#8 : Byte) &&& 0xF0#8 = 0x20#8 ∧ ((0x24#8 : Byte).extractLsb' 0 3).toNat ≤ 4) ∧
    ((0x3F#8 : Byte).extractLsb' 5 3 = 0b001#3 ∧ (0x3F#8 : Byte).getLsbD 4 = true) ∧
    ((0x25#8 : Byte).extractLsb' 5 3 = 0b001#3 ∧ 4 < ((0x25#8 : Byte).extractLsb' 0 3).toNat) ∧
    ((0x0C#8 : Byte) &&& 0xF0#8 = 0x00#8 ∧ ((0x0C#8 : Byte).extractLsb' 0 3).toNat ≤ 4) ∧
    ((0x10#8 : Byte).extractLsb' 5 3 = 0b000#3 ∧ (0x10#8 : Byte).getLsbD 4 = true) ∧
    ((0x05#8 : Byte).extractLsb' 5 3 = 0b000#3 ∧ 4 < ((0x05#8 : Byte).extractLsb' 0 3).toNat) ∧
    (0x40#8 : Byte) &&& 0xE0#8 = 0x40#8 := by decide

/-- EncodeFunctionIsInjective: Messages that differ in the State, and in the Button. -/
theorem witness_messagesDiffer :
    (Message.mk 4 stateOn).state ≠ (Message.mk 4 stateOff).state ∧ (Message.mk 0 stateOn).button ≠ (Message.mk 4 stateOn).button := by
  decide

/-- ReduceFollowsItsAlgorithm, ReduceEmitsIffStateDiffers, UpdateOperation: the stored State equal to the Message's, and different. -/
theorem witness_storedState : readLevel 0b10000#5 4 = stateOn ∧ readLevel 0b10000#5 4 ≠ stateOff ∧
    readLevel (reduce plainBuild 0b10000#5 { button := 4, state := stateOff }).1 4 ≠ readLevel 0b10000#5 4 := by decide

/-- ReduceIsIdempotent. -/
theorem witness_reduce : reduce plainBuild 0b00000#5 { button := 4, state := stateOn } =
    (0b10000#5, .midi (encodePacket plainBuild { button := 4, state := stateOn })) := by decide

/-- DivergedRegistersUnderSample: the three clauses, at Buttons 1, 5 and 3. -/
theorem witness_diverged :
    readLevel 0b10100#5 0 = readLevel 0b00000#5 0 ∧
    (readLevel 0b10100#5 4 ≠ readLevel 0b00000#5 4 ∧ readLevel 0b10100#5 4 = readLevel 0b10001#5 4) ∧
    (readLevel 0b10100#5 2 ≠ readLevel 0b00000#5 2 ∧ readLevel 0b10100#5 2 ≠ readLevel 0b10001#5 2) := by decide

/-- ReductionsOfDistinctButtonsCommute, UpdatesOfDistinctButtonsCommute. -/
theorem witness_distinctButtons :
    List.Perm [Message.mk 0 stateOn, Message.mk 4 stateOff] [Message.mk 4 stateOff, Message.mk 0 stateOn] ∧
    ([Message.mk 0 stateOn, Message.mk 4 stateOff].map Message.button).Nodup ∧
    (testState plainBuild 0b10000#5 0#5 []).refused = none := by decide

/-- OperationsIgnoreWhatWasEmitted: two runs that differ in what went out. -/
theorem witness_differInStream :
    (testState plainBuild 0#5 0#5 []).config =
      ((testState plainBuild 0#5 0#5 []).complete { latch := 0#5, last := 0#5 } [encodePacket plainBuild { button := 0, state := stateOn }]).config ∧
    (testState plainBuild 0#5 0#5 []).block =
      ((testState plainBuild 0#5 0#5 []).complete { latch := 0#5, last := 0#5 } [encodePacket plainBuild { button := 0, state := stateOn }]).block ∧
    (testState plainBuild 0#5 0#5 []) ≠
      (testState plainBuild 0#5 0#5 []).complete { latch := 0#5, last := 0#5 } [encodePacket plainBuild { button := 0, state := stateOn }] := by
  decide

/-- AfterResetReleaseIsSilentAndPressEmits: level vectors with the Button's level On, and Off while the others are On. -/
theorem witness_levels : readLevel 0b00100#5 2 = stateOn ∧ readLevel 0b11011#5 2 = stateOff := by decide

/-- DroppedPacketIsNotEmittedAgain: a SAMPLE that emits for Button 3. -/
theorem witness_sampleEmits :
    (((detect [0, 1, 2, 3, 4] 0#5 0b00100#5).map (encodePacket plainBuild)).filter (packetIsOf 2) ≠ []) ∧
    shown (exec (.sample 0b00100#5) (testState plainBuild 0#5 0#5 [])) =
      some ({ latch := 0b00100#5, last := 0b00100#5 }, [[0x09#8, 0x90#8, 0x3E#8, 0x7F#8]]) := by decide

/-- DroppedPacketIsNotEmittedAgain: P3 after its drop, Button 3 held On, with operations of the other Buttons among its own. -/
theorem witness_operationsThatAgree :
    readLevel (testState plainBuild 0b00100#5 0#5 []).block.latch 2 = stateOn ∧ (testState plainBuild 0b00100#5 0#5 []).refused = none ∧
    (∀ v, .update 2 v ∈ [Instr.update 2 stateOn, .update 0 stateOn, .sample 0b10100#5, .encode 0 stateOff] →
      v = readLevel (testState plainBuild 0b00100#5 0#5 []).block.latch 2) ∧
    (∀ lv, .sample lv ∈ [Instr.update 2 stateOn, .update 0 stateOn, .sample 0b10100#5, .encode 0 stateOff] →
      readLevel lv 2 = readLevel (testState plainBuild 0b00100#5 0#5 []).block.latch 2) ∧
    (∀ d, Instr.encode 2 d ∉ [Instr.update 2 stateOn, .update 0 stateOn, .sample 0b10100#5, .encode 0 stateOff]) := by decide

/-- OneOperationFitsAnEmptyMailbox: a full mailbox. -/
theorem witness_fullMailbox :
    mailboxCapacity ≤ (List.replicate 5 (encodePacket plainBuild { button := 0, state := stateOn })).length := by decide

/-- StepRunsTheDecodedOperation, and the clauses of withFetchWord. -/
theorem witness_command : (testState plainBuild 0#5 0#5 [.command 0x0C#8]).refused = none ∧
    (testState plainBuild 0#5 0#5 [.command 0x0C#8]).events = [.command 0x0C#8] ∧ decode 0x0C#8 = .ok (.update 4 stateOn) ∧
    0x5F < 256 ∧ decode (BitVec.ofNat 8 0x5F) = .ok (.sample 0b11111#5) := by decide

/-- ResetWritesBothRegistersOnly, AfterResetReleaseIsSilentAndPressEmits. -/
theorem witness_resetEvent : (testState plainBuild 0b10110#5 0b10110#5 [.reset]).refused = none ∧
    (testState plainBuild 0b10110#5 0b10110#5 [.reset]).events = [.reset] := by decide

/-- ResetDuringOperationHasTwoOutcomes. -/
theorem witness_resetDuring : (testState plainBuild 0b10110#5 0b10110#5 [.resetDuring 0x5F#8]).refused = none ∧
    (testState plainBuild 0b10110#5 0b10110#5 [.resetDuring 0x5F#8]).events = [.resetDuring 0x5F#8] ∧
    decode 0x5F#8 = .ok (.sample 0b11111#5) := by decide

/-- ConstructionRefusesIllFormedConfigurations, RefusalReasonsAreTheClosedList: both sides of each bound. -/
theorem witness_rawConfigs :
    15 < (RawConfig.mk 16 0 .ascending).cable ∧ 15 < (RawConfig.mk 0 16 .ascending).channel ∧
    (RawConfig.mk 15 15 .ascending).cable ≤ 15 ∧ (RawConfig.mk 15 15 .ascending).channel ≤ 15 ∧
    refusalShown (construct (RawConfig.mk 16 0 .ascending) []) = some .configIllFormed := by decide

/-- RefusalReasonsAreTheClosedList: a word for each clause, an overlapping issue of two operations, and a step that is refused. -/
theorem witness_refusalClauses :
    3 ≤ ((0x60#8 : Byte).extractLsb' 5 3).toNat ∧
    (((0x30#8 : Byte).extractLsb' 5 3).toNat ≤ 1 ∧ (0x30#8 : Byte).getLsbD 4 = true) ∧
    (((0x25#8 : Byte).extractLsb' 5 3).toNat ≤ 1 ∧ (0x25#8 : Byte).getLsbD 4 = false ∧ 4 < ((0x25#8 : Byte).extractLsb' 0 3).toNat) ∧
    (testState plainBuild 0#5 0#5 [.overlapping 0x08#8 0x09#8]).events = [.overlapping 0x08#8 0x09#8] ∧
    decode 0x08#8 = .ok (.update 0 stateOn) ∧ decode 0x09#8 = .ok (.update 1 stateOn) ∧
    refusalShown (step (testState plainBuild 0#5 0#5 [.command 0x25#8])) = some .buttonOutOfRange := by decide

/-- RefusedWordInHardwareAndInTheModel. -/
theorem witness_refusedWord : (testState plainBuild 0#5 0#5 [.command 0x60#8, .command 0x01#8]).refused = none ∧
    (testState plainBuild 0#5 0#5 [.command 0x60#8, .command 0x01#8]).events = [.command 0x60#8, .command 0x01#8] ∧
    decode 0x60#8 = .error .reservedOpcode := by decide

/-- OverlapsAndRefusedWordsDuringResetAreRefused: an overlap of words that are no operations, and a refused word during a reset. -/
theorem witness_overlapAndResetDuring :
    (testState plainBuild 0#5 0#5 [.overlapping 0x60#8 0x05#8]).refused = none ∧
    (testState plainBuild 0#5 0#5 [.overlapping 0x60#8 0x05#8]).events = [.overlapping 0x60#8 0x05#8] ∧
    (testState plainBuild 0b00100#5 0#5 [.resetDuring 0x05#8]).refused = none ∧
    (testState plainBuild 0b00100#5 0#5 [.resetDuring 0x05#8]).events = [.resetDuring 0x05#8] ∧
    decode 0x05#8 = .error .buttonOutOfRange := by decide

/-- RefusedMarkIsNeverCleared. -/
theorem witness_marked : ((testState plainBuild 0b00010#5 0#5 [.reset]).markRefused .reservedOpcode).refused = some .reservedOpcode := by
  decide

/-- HaltedEnvironmentIsStuckNotFinal. -/
theorem witness_halt : (testState plainBuild 0#5 0#5 [.halt]).refused = none ∧
    (testState plainBuild 0#5 0#5 [.halt]).events = [.halt] := by decide

/-- RunOfDutifulEventsTakesThatManySteps. -/
theorem witness_dutiful :
    (testState plainBuild 0#5 0#5 [.command 0x08#8, .resetDuring 0x45#8, .reset, .command 0x2C#8]).refused = none ∧
    (∀ e ∈ (testState plainBuild 0#5 0#5 [.command 0x08#8, .resetDuring 0x45#8, .reset, .command 0x2C#8]).events, e.isDutiful = true) ∧
    4 ≤ (testState plainBuild 0#5 0#5 [.command 0x08#8, .resetDuring 0x45#8, .reset, .command 0x2C#8]).events.length := by decide

/-- StepKeepsParametersAndEmittedPackets, StepKeepsTheStreamWellFormed, LatchTracksTheOutputStream, LastEqualsLatchWithoutUpdates,
ModelRunsAreHardwareRuns: a run of one SAMPLE whose step answers a next state and which meets every hypothesis. -/
theorem witness_sampleRun :
    (testState plainBuild 0#5 0#5 [.command 0x45#8]).streamWellFormed ∧
    (testState plainBuild 0#5 0#5 [.command 0x45#8]).latchTracksStream ∧
    (testState plainBuild 0#5 0#5 [.command 0x45#8]).block.last = (testState plainBuild 0#5 0#5 [.command 0x45#8]).block.latch ∧
    (∀ e ∈ (testState plainBuild 0#5 0#5 [.command 0x45#8]).events, e.isFilterOperation = true ∧ e.isUpdate = false) ∧
    (∃ t, step (testState plainBuild 0#5 0#5 [.command 0x45#8]) = .next t ∧
      runSteps 1 (testState plainBuild 0#5 0#5 [.command 0x45#8]) = .next t) :=
  ⟨fun _ h => absurd h List.not_mem_nil,
    fun b => ⟨trivial, (by decide : ∀ b : Button, stateOff = readLevel 0#5 b) b⟩, rfl, by decide, ⟨_, rfl, rfl⟩⟩

/-- RoundTripByUpdates: each Button pressed and at once released. -/
theorem witness_tenUpdates : ∀ b : Button,
    (allButtons.flatMap fun i => [Message.mk i stateOn, Message.mk i stateOff]).filter (fun m => decide (m.button = b)) =
      [{ button := b, state := stateOn }, { button := b, state := stateOff }] := by decide

/-- RoundTripBySamples: program P5's levels. -/
theorem witness_twoSamples : ∀ b : Button, ∃ i j k, [0b11111#5, 0b00000#5].map (fun lv => readLevel lv b) =
    List.replicate i stateOff ++ (List.replicate (j + 1) stateOn ++ List.replicate (k + 1) stateOff) :=
  fun b => ⟨0, 0, 0, (by decide : ∀ b : Button, [0b11111#5, 0b00000#5].map (fun lv => readLevel lv b) = [stateOn, stateOff]) b⟩

end Sys2Proof.Tests
end

/-! PROOFS of the family 00_scope (O34, O36): construction of a build (R8), and an issued command word that decode refuses (R10, R88). -/

namespace Sys2Proof.Machine

section construction
variable {r : RawConfig}

/-- R8, both bounds of a well-formed configuration in one. -/
theorem rawConfig_wellFormed_iff : r.wellFormed = true ↔ r.cable ≤ 15 ∧ r.channel ≤ 15 := by
  simp [RawConfig.wellFormed, RawConfig.cableFits, RawConfig.channelFits]

theorem construct_of_wellFormed (h : r.wellFormed = true) (es : List Event) :
    construct r es = .next (State.powerOn (configOf r) es) := if_pos h

theorem construct_of_not_wellFormed (h : ¬ r.wellFormed = true) (es : List Event) :
    construct r es = .refused .configIllFormed := if_neg h

/-- A cable number that fits its 4 bits is not cut (R7). -/
theorem configOf_cable_toNat (h : r.cable ≤ 15) : (configOf r).cable.toNat = r.cable :=
  (BitVec.toNat_ofNat _ _).trans (Nat.mod_eq_of_lt (by omega))

/-- A channel that fits its 4 bits is not cut (R7). -/
theorem configOf_channel_toNat (h : r.channel ≤ 15) : (configOf r).channel.toNat = r.channel :=
  (BitVec.toNat_ofNat _ _).trans (Nat.mod_eq_of_lt (by omega))

@[simp] theorem configOf_sampleOrder (r : RawConfig) : (configOf r).sampleOrder = r.sampleOrder := rfl

end construction

section refusedWord
variable {s : State} {w : Byte} {d : DecodeRefusal} {e : Event} {rest : List Event} {r : Refusal}

theorem issue_of_decode_error (h : decode w = .error d) (s : State) : issue w s = .refused (refusalOf d) := by
  simp [issue, h]

theorem hardwareIssue_of_decode_error (h : decode w = .error d) (s : State) : hardwareIssue w s = .next s.discard := by
  simp [hardwareIssue, h]

/-- The hardware's step answers its next event; it reads no refused mark (R88). -/
theorem hardwareStep_of_event (he : s.events = e :: rest) : hardwareStep s = hardwareRespond e s.dropEvent := by
  simp [hardwareStep, State.nextEvent, he]

/-- A refused step sets the mark on the state it began in (R10, R88; log 7). -/
theorem advance_of_step_refused (h : step s = .refused r) : advance s = s.markRefused r := by
  simp [advance, h]

/-- The model refuses an issued word that decode refuses, by decode's reason (R88). -/
theorem step_of_refused_command (hr : s.refused = none) (he : s.events = .command w :: rest) (hd : decode w = .error d) :
    step s = .refused (refusalOf d) := by
  rw [step_of_event hr he]
  exact issue_of_decode_error hd _

/-- The hardware only takes the event of an issued word that decode refuses (R88). -/
theorem hardwareStep_of_refused_command (he : s.events = .command w :: rest) (hd : decode w = .error d) :
    hardwareStep s = .next s.dropEvent.discard := by
  rw [hardwareStep_of_event he]
  exact hardwareIssue_of_decode_error hd _

end refusedWord

/-- Settles O34: construction branches on `wellFormed`, which is the two bounds of R8, and in bounds `configOf` loses no bit. -/
theorem constructionRefusesIllFormedConfigurations : Obligations.ConstructionRefusesIllFormedConfigurations := by
  intro r es
  constructor
  · intro hout
    have hbad : ¬ r.wellFormed = true := by rw [rawConfig_wellFormed_iff]; omega
    exact construct_of_not_wellFormed hbad es
  · intro hcable hchannel
    have hgood : r.wellFormed = true := rawConfig_wellFormed_iff.mpr ⟨hcable, hchannel⟩
    exact ⟨configOf r, configOf_cable_toNat hcable, configOf_channel_toNat hchannel, configOf_sampleOrder r,
      construct_of_wellFormed hgood es⟩

/-- Settles O36: the hardware drops the event and discards the word, the model's step is refused, and `advance` marks the run. -/
theorem refusedWordInHardwareAndInTheModel : Obligations.RefusedWordInHardwareAndInTheModel := by
  intro s w rest d hr he hd
  have hstep : step s = .refused (refusalOf d) := step_of_refused_command hr he hd
  refine ⟨⟨s.dropEvent.discard, hardwareStep_of_refused_command he hd, ?_⟩, hstep, advance_of_step_refused hstep⟩
  simp [he]

end Sys2Proof.Machine

/-! PROOFS of the family 10_state (O25, O26, O32, O40): what an operation and a step leave as it was, that an operation reads only the
registers and the build (R25), and the first operation after reset (R22, R104). -/

namespace Sys2Proof.Machine

/-- What an operation issued at `s` leaves as it was, whether it completes or is wholly discarded: the parameters, the remaining events, the
refused mark and every packet already out (R23, R24, R28, R106); and the next index, the model's own convention (log 5). -/
structure OperationFrame (s t : State) : Prop where
  config  : t.config = s.config
  events  : t.events = s.events
  refused : t.refused = s.refused
  stream  : s.stream <+: t.stream
  opIndex : t.opIndex = s.opIndex + 1

section frame
variable {s t : State} {e : Event}

theorem OperationFrame.complete (s : State) (blk : BlockState) (out : List Packet) : OperationFrame s (s.complete blk out) :=
  ⟨rfl, rfl, rfl, ⟨out, rfl⟩, rfl⟩

theorem OperationFrame.discard (s : State) : OperationFrame s s.discard :=
  ⟨rfl, rfl, rfl, ⟨[], List.append_nil _⟩, rfl⟩

/-- Reset behind an operation writes the registers alone, so the operation's frame stands (R103, R106). -/
theorem OperationFrame.assertReset (h : OperationFrame s t) : OperationFrame s t.assertReset :=
  ⟨h.config, h.events, h.refused, h.stream, h.opIndex⟩

theorem exec_frame {i : Instr} (h : exec i s = .next t) : OperationFrame s t := by
  rw [exec_eq_complete] at h
  cases h
  exact .complete ..

/-- An event answered by a next state is a reset or has the frame of an operation. -/
theorem respond_frame (h : respond e s = .next t) : (e = .reset ∧ t = s.assertReset) ∨ (e ≠ .reset ∧ OperationFrame s t) := by
  obtain ⟨w, i, rfl, -, hexec⟩ | hreset | ⟨w, i, u, rfl, -, hexec | rfl, rfl⟩ := respond_next_cases h
  · exact .inr ⟨nofun, exec_frame hexec⟩
  · exact .inl hreset
  · exact .inr ⟨nofun, (exec_frame hexec).assertReset⟩
  · exact .inr ⟨nofun, (OperationFrame.discard s).assertReset⟩

end frame

section effect
variable (c : Config) (blk : BlockState)

/-- Only UPDATE and SAMPLE write `LATCH` (R17, R60). -/
theorem latch_writer {i : Instr} (h : (effectOf c i blk).1.latch ≠ blk.latch) :
    (∃ b v, i = .update b v) ∨ ∃ lv, i = .sample lv := by
  cases i with
  | update b v => exact .inl ⟨b, v, rfl⟩
  | encode b d => exact absurd rfl h
  | sample lv => exact .inr ⟨lv, rfl⟩

/-- Only SAMPLE writes `LAST` (R21, R75). -/
theorem last_writer {i : Instr} (h : (effectOf c i blk).1.last ≠ blk.last) : ∃ lv, i = .sample lv := by
  cases i with
  | update b v => exact absurd rfl h
  | encode b d => exact absurd rfl h
  | sample lv => exact ⟨lv, rfl⟩

end effect

/-- Settles O25: an operation completes with `effectOf`, whose arms name the writers, and completing keeps the frame. -/
theorem whatEachOperationMayWrite : Obligations.WhatEachOperationMayWrite := by
  intro i s
  obtain ⟨hconfig, hevents, hrefused, hstream, hindex⟩ := exec_frame (exec_eq_complete i s)
  exact ⟨_, exec_eq_complete i s, latch_writer _ _, last_writer _ _, hconfig, hevents, hrefused, hstream, hindex⟩

/-- Settles O26: the registers and the packets are those of `effectOf`, a function of the build and the registers alone. -/
theorem operationsIgnoreWhatWasEmitted : Obligations.OperationsIgnoreWhatWasEmitted := by
  intro i s s' hconfig hblock
  have hsame : effectOf s'.config i s'.block = effectOf s.config i s.block := by rw [hconfig, hblock]
  have hexec' := exec_eq_complete i s'
  rw [hsame] at hexec'
  exact ⟨_, _, _, exec_eq_complete i s, hexec', rfl, rfl, rfl⟩

/-- Settles O40: a step takes one event and answers it; the answer is a reset, or has an operation's frame. -/
theorem stepKeepsParametersAndEmittedPackets : Obligations.StepKeepsParametersAndEmittedPackets := by
  intro s t hstep
  obtain ⟨hr, e, rest, he, hrespond⟩ := step_next_cases hstep
  obtain ⟨rfl, rfl⟩ | ⟨hne, hframe⟩ := respond_frame hrespond
  · simp [he, hr]
  · obtain ⟨hconfig, hevents, hrefused, hstream, hindex⟩ := hframe
    exact ⟨hconfig, hstream, hevents, hrefused.trans hr, by simpa [he, hne] using hindex⟩

section packetsOfButton
variable (c : Config) (lv : Levels) (b : Button)

theorem note_toNat : (note b).toNat = 60 + b.val := by
  simp only [note, noteBase, BitVec.toNat_ofNat]
  omega

/-- Distinct Buttons have distinct notes, and no note bit is lost in the byte (R61). -/
@[simp] theorem packetIsOf_encodePacket (m : Message) : packetIsOf b (encodePacket c m) = decide (m.button = b) := by
  have hbyte (i : Button) : ((note i).setWidth 8).toNat = 60 + i.val := by
    rw [BitVec.toNat_setWidth_of_le (by decide), note_toNat]
  simp only [packetIsOf, encodePacket, BitVec.toNat_inj.symm, hbyte, Fin.ext_iff, Nat.add_left_cancel_iff]

/-- A Button's packets among those of a SAMPLE: its own one when its level differs from both registers, and else none (R80, R82). -/
theorem sampleLoop_packetsOf (o : SampleOrder) (blk : BlockState) :
    (sampleLoop c lv o.toList blk).2.filter (packetIsOf b) =
      if changedBoth lv blk b then [encodePacket c { button := b, state := readLevel lv b }] else [] := by
  obtain ⟨-, -, hout⟩ := sampleLoop_spec c lv o.toList o.nodup_toList blk
  have honce : o.toList.count b = 1 := List.count_eq_one_of_mem o.nodup_toList (o.mem_toList b)
  rw [hout, List.filter_map, List.filter_comm]
  simp only [Function.comp_def, packetIsOf_encodePacket, List.filter_eq, honce, List.replicate_one]
  by_cases h : changedBoth lv blk b <;> simp [h]

end packetsOfButton

section afterReset
variable (c : Config) (b : Button) (lv : Levels)

@[simp] theorem readLevel_allOff_latch : readLevel BlockState.allOff.latch b = stateOff := by revert b; decide

@[simp] theorem readLevel_allOff_last : readLevel BlockState.allOff.last b = stateOff := by revert b; decide

/-- From both registers 0 (R22, R104; log 13), an UPDATE emits exactly when it presses. -/
theorem update_allOff_output (v : OnOff) :
    (effectOf c (.update b v) .allOff).2 = if v = stateOn then [encodePacket c { button := b, state := v }] else [] := by
  rw [effectOf, reduce_output]
  cases v <;> simp [messageOperand]

/-- From both registers 0 (R22, R104; log 13), a SAMPLE emits for a Button exactly when its level is On. -/
theorem sample_allOff_packetsOf :
    (effectOf c (.sample lv) .allOff).2.filter (packetIsOf b) =
      if readLevel lv b = stateOn then [encodePacket c { button := b, state := stateOn }] else [] := by
  rw [effectOf, sampleLoop_packetsOf]
  cases h : readLevel lv b <;> simp [changedBoth, h]

end afterReset

theorem step_of_reset {s : State} {rest : List Event} (hr : s.refused = none) (he : s.events = .reset :: rest) :
    step s = .next s.dropEvent.assertReset :=
  step_of_event hr he

/-- Settles O32: the reset step leaves both registers 0 and the stream, and from registers 0 an operation emits for a Button only when
it presses. -/
theorem afterResetReleaseIsSilentAndPressEmits : Obligations.AfterResetReleaseIsSilentAndPressEmits := by
  intro s rest b hr he
  refine ⟨_, step_of_reset hr he, rfl, rfl, ⟨_, exec_eq_complete .., ?_⟩, fun lv hoff => ⟨_, _, exec_eq_complete .., rfl, ?_⟩,
    ⟨_, exec_eq_complete .., ?_⟩, fun lv hon => ⟨_, _, exec_eq_complete .., rfl, ?_⟩⟩
  · simp [release, update_allOff_output]
  · simp [sample_allOff_packetsOf, hoff]
  · simp [press, update_allOff_output]
  · simp [sample_allOff_packetsOf, hon]

end Sys2Proof.Machine

/-! PROOFS of the family 20_memory (O11, O21, O24, O30): the packet's 32-bit view (R34), the order of issue (R35), repeated operations (R38)
and UPDATEs in any order (R40). -/

namespace Sys2Proof.Machine

/-- A byte shifted to bit k of a word, seen through a window of 8 bits: whole in its own place, 0 in a place beside it. -/
theorem extractLsb'_shifted_byte (b : Byte) {j k : Nat} (hj : j + 8 ≤ 32) (h : j = k ∨ j + 8 ≤ k ∨ k + 8 ≤ j) :
    (b.setWidth 32 <<< k).extractLsb' j 8 = if j = k then b else 0#8 := by
  ext i hi
  simp only [BitVec.getElem_extractLsb', BitVec.getLsbD_shiftLeft, BitVec.getLsbD_setWidth]
  obtain rfl | hbelow | habove := h
  · simp [hi, show j + i < 32 by omega, show i < 32 by omega]
  · simp [show j + i < k by omega, show j ≠ k by omega]
  · simp [show 8 ≤ j + i - k by omega, show j ≠ k by omega]

/-- Settles O11: the view joins the bytes, each shifted to a place of its own, so a byte's place shows that byte alone. -/
theorem packetWordView : Obligations.PacketWordView := by
  refine ⟨fun p => ?_, by decide⟩
  have hbyte0 : p.byte0.setWidth 32 = p.byte0.setWidth 32 <<< 0 := (BitVec.shiftLeft_zero _).symm
  rw [packetWord, hbyte0]
  simp [-BitVec.shiftLeft_zero, BitVec.extractLsb'_or, extractLsb'_shifted_byte]

section issue
variable {s : State} {w : Byte} {i : Instr} {rest : List Event}

/-- An issued word that decodes runs its operation, its event taken (R35). -/
theorem step_of_command (hr : s.refused = none) (he : s.events = .command w :: rest) (hd : decode w = .ok i) :
    step s = exec i { s with events := rest } := by
  have hdrop : s.dropEvent = { s with events := rest } := by simp [State.dropEvent, he]
  simp [step_of_event hr he, respond, issue, hd, hdrop]

/-- R50, R51: the command word of an operation decodes to it, whatever its operands. -/
theorem decode_encode (i : Instr) : decode (encode i) = .ok i := by
  cases i with
  | update b v => revert b v; decide
  | encode b d => revert b d; decide
  | sample lv => revert lv; decide

/-- A run whose next event is an operation's command word goes on from where the operation completes (R35, R113). -/
theorem runSteps_of_command (n : Nat) (hr : s.refused = none) (he : s.events = .command (encode i) :: rest) :
    runSteps (n + 1) s = runSteps n (State.complete { s with events := rest }
      (effectOf s.config i s.block).1 (effectOf s.config i s.block).2) := by
  rw [runSteps, step_of_command hr he (decode_encode i), exec_eq_complete]

end issue

/-- Settles O30: `step_of_command`, at the next event, and at the word that `withFetchWord` puts there. -/
theorem stepRunsTheDecodedOperation : Obligations.StepRunsTheDecodedOperation := by
  refine ⟨fun s w rest i => step_of_command, fun s w i hw hd => ?_⟩
  have hword : (s.withFetchWord 8 w).events = .command (BitVec.ofNat 8 w) :: s.events := by
    simp [State.withFetchWord, Nat.mod_eq_of_lt hw]
  exact step_of_command rfl hword hd

section repeated
variable (c : Config) (blk : BlockState)

/-- After an UPDATE the latch holds its State, whether it was written or found there (R76). -/
@[simp] theorem latch_after_update (b : Button) (v : OnOff) :
    readLevel (effectOf c (.update b v) blk).1.latch b = v := by
  rw [effectOf, reduce_latch]
  exact readLevel_writeLevel_same ..

/-- An UPDATE to the State already stored is silent and writes nothing (R69). -/
theorem effectOf_update_of_stored {b : Button} {v : OnOff} (h : readLevel blk.latch b = v) :
    effectOf c (.update b v) blk = (blk, []) := by
  have hreduce : reduce c blk.latch (messageOperand b v) = (blk.latch, .nothing) := if_pos h
  rw [effectOf, hreduce]
  rfl

/-- A SAMPLE of `LAST`'s own vector detects no change at any Button (R38, R78). -/
theorem sampleLoop_of_last (order : List Button) : sampleLoop c blk.last order blk = (blk, []) := by
  induction order with
  | nil => rfl
  | cons i rest ih =>
    have hturn : sampleButton c blk.last i blk = (blk, []) := if_neg (not_not.mpr rfl)
    rw [sampleLoop, hturn, ih, List.nil_append]

/-- An operation without effect leaves all but the index as it was. -/
theorem exec_of_no_effect {i : Instr} {s : State} (h : effectOf s.config i s.block = (s.block, [])) :
    exec i s = .next { s with opIndex := s.opIndex + 1 } := by
  rw [exec_eq_complete, h, State.complete, List.append_nil]

end repeated

/-- Settles O21: ENCODE's effect keeps the registers; after an UPDATE its State is stored; `LAST` differs from itself nowhere. -/
theorem repeatedOperations : Obligations.RepeatedOperations := by
  refine ⟨fun b d s => ⟨_, exec_eq_complete .., rfl⟩, fun b v s => ?_, fun s => ⟨_, exec_of_no_effect (sampleLoop_of_last ..)⟩⟩
  have hsecond := effectOf_update_of_stored s.config _ (latch_after_update s.config s.block b v)
  exact ⟨_, _, exec_eq_complete .., exec_of_no_effect hsecond, rfl, rfl⟩

/-- Messages of distinct Buttons, reduced in any order: the same latch, and the same packets up to order (R40, R87). -/
theorem reduceAll_perm (c : Config) (latch : Levels) {ms ns : List Message} (hp : ms.Perm ns)
    (hnodup : (ms.map Message.button).Nodup) :
    (reduceAll c ms latch).1 = (reduceAll c ns latch).1 ∧ (reduceAll c ms latch).2.Perm (reduceAll c ns latch).2 := by
  have hbuttons : (ms.map Message.button).Perm (ns.map Message.button) := hp.map _
  obtain ⟨hin, hout, hpackets⟩ := reduceAll_spec c ms hnodup latch
  obtain ⟨hin', hout', hpackets'⟩ := reduceAll_spec c ns (hbuttons.nodup_iff.mp hnodup) latch
  refine ⟨levels_ext fun b => ?_, ?_⟩
  · by_cases hb : b ∈ ms.map Message.button
    · obtain ⟨m, hm, rfl⟩ := List.mem_map.mp hb
      rw [hin m hm, hin' m (hp.mem_iff.mp hm)]
    · rw [hout b hb, hout' b (mt hbuttons.mem_iff.mpr hb)]
  · rw [hpackets, hpackets']
    exact (hp.filter _).map _

/-- A run of UPDATEs reduces their Messages one after the other; every event is taken and `LAST` is never written (R35, R76). -/
theorem runSteps_updates (ms : List Message) {s : State} (hr : s.refused = none)
    (he : s.events = commandsOf (ms.map fun m => .update m.button m.state)) :
    runSteps ms.length s = .next { s with
      block := { latch := (reduceAll s.config ms s.block.latch).1, last := s.block.last }
      events := []
      stream := s.stream ++ (reduceAll s.config ms s.block.latch).2
      opIndex := s.opIndex + ms.length } := by
  induction ms generalizing s with
  | nil => cases s; cases he; simp [runSteps, reduceAll]
  | cons m rest ih =>
    rw [List.length_cons, runSteps_of_command _ hr he, ih]
    · simp [effectOf, messageOperand, reduceAll, Nat.add_comm, Nat.add_left_comm]
    · exact hr
    · rfl

/-- Settles O24: runs of UPDATEs are `reduceAll`, which a permutation of distinct Buttons leaves the same; a reduction writes its State. -/
theorem updatesOfDistinctButtonsCommute : Obligations.UpdatesOfDistinctButtonsCommute := by
  refine ⟨fun s ms ns hr hp hnodup => ?_, fun s b v v' => ⟨_, _, exec_eq_complete .., exec_eq_complete .., latch_after_update ..⟩⟩
  obtain ⟨hlatch, hpackets⟩ := reduceAll_perm s.config s.block.latch hp hnodup
  refine ⟨_, _, _, _, runSteps_updates ms hr rfl, runSteps_updates ns hr rfl, ?_, rfl, rfl, hpackets⟩
  simp [hlatch]

end Sys2Proof.Machine

/-! PROOFS of the family 30_encoding (O1 to O6, O8, O41): the packet's fields (R43 to R48), the decoder and its census (R49 to R55), and the
assembler's text (R57, R58). -/

namespace Sys2Proof.Machine

section packet
variable (c : Config)

/-- The shifted nibble and the other one share no bit: the byte is the two side by side (R44, R45). -/
theorem byteOfNibbles_eq_append (hi lo : Nibble) : byteOfNibbles hi lo = hi ++ lo :=
  (BitVec.setWidth_append_eq_shiftLeft_setWidth_or ..).symm.trans (BitVec.setWidth_eq _)

@[simp] theorem byteOfNibbles_high (hi lo : Nibble) : (byteOfNibbles hi lo).extractLsb' 4 4 = hi := by
  rw [byteOfNibbles_eq_append, BitVec.extractLsb'_append_eq_left]

@[simp] theorem byteOfNibbles_low (hi lo : Nibble) : (byteOfNibbles hi lo).extractLsb' 0 4 = lo := by
  rw [byteOfNibbles_eq_append, BitVec.extractLsb'_append_eq_right]

/-- Settles O8: bytes 0 and 1 are two nibbles each, the note's 7 bits are kept below a 0, and the velocity is a constant. -/
theorem packetFieldLayout : Obligations.PacketFieldLayout := by
  intro c m
  have hnoteBits : ((note m.button).setWidth 8).extractLsb' 0 7 = note m.button := by
    rw [BitVec.extractLsb'_setWidth_of_le (by decide), BitVec.extractLsb'_eq_self]
  have hnoteTop : ((note m.button).setWidth 8).getLsbD 7 = false := by simp
  have hvelocity : velocity.getLsbD 7 = false ∧ (velocity.extractLsb' 0 7).toNat = 127 := by decide
  refine ⟨_, rfl, byteOfNibbles_high .., byteOfNibbles_low .., byteOfNibbles_high .., byteOfNibbles_low .., hnoteTop, ?_, hvelocity⟩
  rw [encodePacket, hnoteBits, note_toNat]

/-- R48 for one packet: whatever the Message, the Encoder's packet is of one of the two kinds. -/
theorem encodePacket_wellFormed (m : Message) : packetWellFormed c (encodePacket c m) := by
  obtain ⟨_, rfl, hcable, hcin, hstatus, hchannel, -, -, -, -⟩ := packetFieldLayout c m
  have hnote : (encodePacket c m).byte2.toNat = 60 + m.button.val := by
    rw [encodePacket, BitVec.toNat_setWidth_of_le (by decide), note_toNat]
  refine ⟨?_, hstatus.trans hcin.symm, hcable, hchannel, by omega, by omega, rfl⟩
  rw [hcin]
  cases m.state
  · exact .inr rfl
  · exact .inl rfl

/-- Every packet of an operation is the Encoder's, on the operation's build (R48, R59). -/
theorem effectOf_packets {i : Instr} {blk : BlockState} {p : Packet} (h : p ∈ (effectOf c i blk).2) :
    ∃ m, p = encodePacket c m := by
  cases i with
  | update b v =>
    rw [effectOf, reduce_output] at h
    split at h
    · cases h
    · exact ⟨_, List.mem_singleton.mp h⟩
  | encode b d => exact ⟨_, List.mem_singleton.mp h⟩
  | sample lv =>
    obtain ⟨-, -, hout⟩ := sampleLoop_spec c lv _ c.sampleOrder.nodup_toList blk
    rw [effectOf, hout] at h
    obtain ⟨i, -, rfl⟩ := List.mem_map.mp h
    exact ⟨_, rfl⟩

/-- R48 is kept by every operation: the packets behind the old ones are the Encoder's. -/
theorem exec_streamWellFormed {i : Instr} {s t : State} (hs : s.streamWellFormed) (h : exec i s = .next t) :
    t.streamWellFormed := by
  rw [exec_eq_complete] at h
  cases h
  intro p hp
  rcases List.mem_append.mp hp with hold | hnew
  · exact hs p hold
  · obtain ⟨m, rfl⟩ := effectOf_packets s.config hnew
    exact encodePacket_wellFormed s.config m

end packet

/-- Settles O41: a step runs an operation, or writes neither the stream nor the build (a reset, a discarded operation). -/
theorem stepKeepsTheStreamWellFormed : Obligations.StepKeepsTheStreamWellFormed := by
  intro s t hs hstep
  obtain ⟨-, e, rest, -, hrespond⟩ := step_next_cases hstep
  have hdrop : s.dropEvent.streamWellFormed := hs
  obtain ⟨_, i, -, -, hexec⟩ | ⟨-, rfl⟩ | ⟨_, i, u, -, -, hexec | rfl, rfl⟩ := respond_next_cases hrespond
  · exact exec_streamWellFormed hdrop hexec
  · exact hdrop
  · exact (exec_streamWellFormed hdrop hexec : u.streamWellFormed)
  · exact hdrop

end Sys2Proof.Machine

namespace Sys2Proof
open Machine

section buttonFields
variable {f : BitVec 3} {b : Button}

theorem buttonOfField_of_le (h : f.toNat ≤ 4) : ∃ b : Button, b.val = f.toNat ∧ buttonOfField f = some b :=
  ⟨⟨f.toNat, by omega⟩, rfl, dif_pos (by omega)⟩

theorem buttonOfField_of_gt (h : 4 < f.toNat) : buttonOfField f = none := dif_neg (by omega)

/-- A field that names a Button is that Button's field (R50). -/
theorem fieldOfButton_of_buttonOfField (h : buttonOfField f = some b) : fieldOfButton b = f := by
  unfold buttonOfField at h
  split at h
  · cases h
    exact (BitVec.ofNat_toNat ..).trans (BitVec.setWidth_eq _)
  · cases h

end buttonFields

section decoder
variable {w : Byte} {i : Instr} {b : Button}

/-- R54's first check of a format M word. -/
theorem decode_of_reservedBit (hop : opField w = 0b000#3 ∨ opField w = 0b001#3) (hr : reservedField w = true) :
    decode w = .error .reservedBitSet := by
  rw [decode, if_pos hop, if_pos hr]

/-- R54's second check of a format M word. -/
theorem decode_of_button_gt (hop : opField w = 0b000#3 ∨ opField w = 0b001#3) (hr : reservedField w = false)
    (hb : 4 < (buttonField w).toNat) : decode w = .error .buttonOutOfRange := by
  simp [decode, hop, hr, buttonOfField_of_gt hb]

theorem decode_of_update (hop : opField w = 0b000#3) (hr : reservedField w = false) (hb : buttonOfField (buttonField w) = some b) :
    decode w = .ok (.update b (stateField w)) := by
  simp [decode, hop, hr, hb]

theorem decode_of_encode (hop : opField w = 0b001#3) (hr : reservedField w = false) (hb : buttonOfField (buttonField w) = some b) :
    decode w = .ok (.encode b (stateField w)) := by
  simp [decode, hop, hr, hb]

theorem decode_of_sample (hop : opField w = 0b010#3) : decode w = .ok (.sample (levelField w)) := by
  simp [decode, hop]

theorem decode_of_reservedOpcode (hop : 3 ≤ (opField w).toNat) : decode w = .error .reservedOpcode := by
  have hne (f : BitVec 3) (hf : f.toNat < 3) : opField w ≠ f := fun h => by rw [h] at hop; omega
  simp [decode, hne 0#3 (by decide), hne 1#3 (by decide), hne 2#3 (by decide)]

/-- All that an accepted word can be (R54). -/
theorem decode_ok_cases (h : decode w = .ok i) :
    (reservedField w = false ∧ ∃ b, buttonOfField (buttonField w) = some b ∧
      ((opField w = 0b000#3 ∧ i = .update b (stateField w)) ∨ (opField w = 0b001#3 ∧ i = .encode b (stateField w)))) ∨
    (opField w = 0b010#3 ∧ i = .sample (levelField w)) := by
  unfold decode at h
  split at h
  · rename_i hop
    split at h
    · cases h
    · rename_i hr
      split at h
      · cases h
      · rename_i b hb
        refine .inl ⟨Bool.eq_false_iff.mpr hr, b, hb, ?_⟩
        split at h
        · cases h; exact .inl ⟨‹_›, rfl⟩
        · cases h; exact .inr ⟨hop.resolve_left ‹_›, rfl⟩
  · split at h
    · cases h; exact .inr ⟨‹_›, rfl⟩
    · cases h

theorem ofBool_getLsbD_eq_extractLsb' (w : Byte) (k : Nat) : BitVec.ofBool (w.getLsbD k) = w.extractLsb' k 1 := by
  ext j hj
  obtain rfl : j = 0 := by omega
  simp

/-- The fields of a format M word, put side by side again, are the word (R50). -/
theorem formatM_fields (hr : reservedField w = false) (hb : buttonOfField (buttonField w) = some b) :
    formatM (opField w) (stateField w) b = w := by
  have hr' : (0#1 : BitVec 1) = w.extractLsb' 4 1 := by
    rw [← ofBool_getLsbD_eq_extractLsb']
    exact congrArg BitVec.ofBool hr.symm
  rw [formatM, fieldOfButton_of_buttonOfField hb, stateField, ofBool_getLsbD_eq_extractLsb', hr', opField, buttonField,
    BitVec.extractLsb'_append_extractLsb'_eq_extractLsb' (rfl : 5 = 4 + 1),
    BitVec.extractLsb'_append_extractLsb'_eq_extractLsb' (rfl : 4 = 3 + 1),
    BitVec.extractLsb'_append_extractLsb'_eq_extractLsb' (rfl : 3 = 0 + 3)]
  exact BitVec.extractLsb'_eq_self

/-- The fields of a format L word, put side by side again, are the word (R51). -/
theorem formatL_fields (w : Byte) : opField w ++ levelField w = w := BitVec.extractLsb'_append_extractLsb'

theorem encode_of_decode (h : decode w = .ok i) : encode i = w := by
  obtain ⟨hr, b, hb, ⟨hop, rfl⟩ | ⟨hop, rfl⟩⟩ | ⟨hop, rfl⟩ := decode_ok_cases h
  · rw [encode, ← hop, formatM_fields hr hb]
  · rw [encode, ← hop, formatM_fields hr hb]
  · rw [encode, ← hop, formatL_fields]

/-- A word decodes to the operation whose word it is, and to no other (R54). -/
theorem decode?_eq_some_iff : decode? w = some i ↔ encode i = w := by
  constructor
  · intro h
    unfold decode? at h
    split at h
    · cases h; exact encode_of_decode ‹_›
    · cases h
  · rintro rfl
    simp [decode?, decode_encode]

end decoder

/-- Settles O2: the round trip is `decode_encode`. -/
theorem decodeOfEncodeIsTheOperation : Obligations.DecodeOfEncodeIsTheOperation := decode_encode

/-- Settles O5: each word is the word of its operation. -/
theorem wordsOfTheSpecDecode : Obligations.WordsOfTheSpecDecode :=
  ⟨decode_encode (.update 4 stateOn), decode_encode (.update 4 stateOff), decode_encode (.encode 4 stateOn),
    decode_encode (.encode 2 stateOn), decode_encode (.sample 0b11111#5), decode_encode (.sample 0b00101#5)⟩

/-- Settles O3: an accepted word's fields, put side by side again, are the word. -/
theorem encodeOfDecodeIsTheWord : Obligations.EncodeOfDecodeIsTheWord := fun _ _ => encode_of_decode

/-- Settles O1: one lemma for each branch of the decoder. -/
theorem decoderFollowsTheOperationField : Obligations.DecoderFollowsTheOperationField := by
  refine fun w => ⟨decode_of_reservedBit, decode_of_button_gt, fun hop hr hb => ?_, fun hop hr hb => ?_, decode_of_sample,
    decode_of_reservedOpcode⟩
  · obtain ⟨b, hval, hb⟩ := buttonOfField_of_le hb
    exact ⟨b, hval, decode_of_update hop hr hb⟩
  · obtain ⟨b, hval, hb⟩ := buttonOfField_of_le hb
    exact ⟨b, hval, decode_of_encode hop hr hb⟩

section census

/-- Counting over `k` rows of `n` numbers each is counting row by row. -/
theorem countP_range_mul (p : Nat → Bool) (k n : Nat) :
    (List.range (k * n)).countP p = ((List.range k).map fun row => (List.range n).countP fun j => p (row * n + j)).sum := by
  induction k with
  | zero => simp
  | succ k ih => simp [Nat.succ_mul, List.range_add, List.range_succ, List.countP_map, ih, Function.comp_def]

/-- The 256 command words, counted for each value of `OP` over the 32 values of the other bits (R49). -/
theorem countP_words (p : Nat → Bool) :
    (List.range 256).countP p = ((List.range 8).map fun op => (List.range 32).countP fun low => p (op * 32 + low)).sum :=
  countP_range_mul p 8 32

/-- The SAMPLE words are those whose `OP` is 010 (R51). -/
theorem decode?_sample_iff {w : Byte} : (∃ lv, decode? w = some (.sample lv)) ↔ opField w = 0b010#3 := by
  simp only [decode?_eq_some_iff]
  constructor
  · rintro ⟨lv, rfl⟩
    exact BitVec.extractLsb'_append_eq_left
  · intro hop
    exact ⟨levelField w, by rw [encode, ← hop, formatL_fields]⟩

end census

/-- Settles O4: the opcode map is compared at each word, and the words are counted for each value of `OP`. -/
theorem censusOfCommandWords : Obligations.CensusOfCommandWords := by
  unfold Obligations.CensusOfCommandWords
  simp only [decode?_sample_iff, countP_words]
  refine ⟨by decide, by decide, by decide, by decide, by decide, by decide, by decide⟩

section assembler

/-- The operands of a format M line are read back from its text (R57). -/
theorem messageText_injective : ∀ {b b' : Button} {s s' : OnOff},
    buttonText b ++ (", " ++ stateText s) = buttonText b' ++ (", " ++ stateText s') → b = b' ∧ s = s' := by
  decide

theorem levelDigit_toList (x : OnOff) : (levelDigit x).toList = [if x then '1' else '0'] := by cases x <;> rfl

/-- The digits of a format L line are read back one by one (R57). -/
theorem levelsText_injective : Function.Injective levelsText := by
  intro lv lv' h
  have hdigit : Function.Injective fun x : OnOff => if x then '1' else '0' := by decide
  have hdigits := congrArg String.toList h
  simp only [levelsText, String.toList_append, levelDigit_toList, List.cons_append, List.cons.injEq, List.nil_append,
    hdigit.eq_iff] at hdigits
  obtain ⟨h4, h3, h2, h1, h0, -⟩ := hdigits
  refine levels_ext fun b => ?_
  fin_cases b
  exacts [h0, h1, h2, h3, h4]

/-- Two operations have the same text only if they are the same: the mnemonic names the row, the rest its operands. -/
theorem assemblyText_injective : Function.Injective assemblyText := by
  intro i j h
  cases i <;> cases j
  case update.update | encode.encode =>
    simp only [assemblyText, String.append_assoc, String.append_right_inj] at h
    obtain ⟨rfl, rfl⟩ := messageText_injective h
    rfl
  case sample.sample =>
    simp only [assemblyText, String.append_right_inj] at h
    rw [levelsText_injective h]
  all_goals
    -- Two mnemonics, which differ in their first letter.
    simp [assemblyText, ← String.toList_inj] at h

theorem assemblyText_ne_pressText (i : Instr) (b : Button) : assemblyText i ≠ pressText b := by
  cases i <;> simp [assemblyText, pressText, ← String.toList_inj]

theorem assemblyText_ne_releaseText (i : Instr) (b : Button) : assemblyText i ≠ releaseText b := by
  cases i <;> simp [assemblyText, releaseText, ← String.toList_inj]

theorem pressText_ne_releaseText (b b' : Button) : pressText b ≠ releaseText b' := by
  simp [pressText, releaseText, ← String.toList_inj]

theorem pressText_injective : Function.Injective pressText := by decide

theorem releaseText_injective : Function.Injective releaseText := by decide

theorem mem_allButtons (b : Button) : b ∈ allButtons := by revert b; decide

/-- The assembler's lines: one for each operation and for each pseudo-operation (R57, R58). -/
theorem mem_assemblerTable {row : String × Byte} : row ∈ assemblerTable ↔
    (∃ i, (assemblyText i, encode i) = row) ∨ (∃ b, (pressText b, encode (press b)) = row) ∨
      ∃ b, (releaseText b, encode (release b)) = row := by
  have hwords : (∃ n < 256, ∃ i, decode? (BitVec.ofNat 8 n) = some i ∧ (assemblyText i, encode i) = row) ↔
      ∃ i, (assemblyText i, encode i) = row := by
    constructor
    · rintro ⟨n, -, i, -, hi⟩
      exact ⟨i, hi⟩
    · rintro ⟨i, hi⟩
      exact ⟨(encode i).toNat, (encode i).isLt, i, by simp [decode?_eq_some_iff], hi⟩
  simp [assemblerTable, hwords, mem_allButtons]

/-- No text stands for two words. -/
theorem assemblerTable_word_unique {text : String} {w w' : Byte} (h : (text, w) ∈ assemblerTable)
    (h' : (text, w') ∈ assemblerTable) : w' = w := by
  simp only [mem_assemblerTable, Prod.mk.injEq] at h h'
  obtain ⟨i, rfl, rfl⟩ | ⟨b, rfl, rfl⟩ | ⟨b, rfl, rfl⟩ := h
  · obtain ⟨j, htext, rfl⟩ | ⟨b, htext, -⟩ | ⟨b, htext, -⟩ := h'
    · rw [assemblyText_injective htext]
    · exact (assemblyText_ne_pressText _ _ htext.symm).elim
    · exact (assemblyText_ne_releaseText _ _ htext.symm).elim
  · obtain ⟨j, htext, -⟩ | ⟨b', htext, rfl⟩ | ⟨b', htext, -⟩ := h'
    · exact (assemblyText_ne_pressText _ _ htext).elim
    · rw [pressText_injective htext]
    · exact (pressText_ne_releaseText _ _ htext.symm).elim
  · obtain ⟨j, htext, -⟩ | ⟨b', htext, -⟩ | ⟨b', htext, rfl⟩ := h'
    · exact (assemblyText_ne_releaseText _ _ htext).elim
    · exact (pressText_ne_releaseText _ _ htext).elim
    · rw [releaseText_injective htext]

/-- The assembler finds a line's word wherever the line stands in its table. -/
theorem assemble_of_mem {text : String} {w : Byte} (h : (text, w) ∈ assemblerTable) : assemble text = some w := by
  have hsome : (assemblerTable.find? fun row => row.1 == text).isSome :=
    List.find?_isSome.mpr ⟨(text, w), h, beq_self_eq_true text⟩
  obtain ⟨⟨text', w'⟩, hfind⟩ := Option.isSome_iff_exists.mp hsome
  have htext := List.find?_some hfind
  obtain rfl : text' = text := eq_of_beq htext
  have hword : w' = w := assemblerTable_word_unique h (List.mem_of_find?_eq_some hfind)
  rw [assemble, hfind, Option.map_some, hword]

theorem assemble_assemblyText (i : Instr) : assemble (assemblyText i) = some (encode i) :=
  assemble_of_mem (mem_assemblerTable.mpr (.inl ⟨i, rfl⟩))

theorem assemble_pressText (b : Button) : assemble (pressText b) = some (encode (press b)) :=
  assemble_of_mem (mem_assemblerTable.mpr (.inr (.inl ⟨b, rfl⟩)))

theorem assemble_releaseText (b : Button) : assemble (releaseText b) = some (encode (release b)) :=
  assemble_of_mem (mem_assemblerTable.mpr (.inr (.inr ⟨b, rfl⟩)))

/-- `RESET` is not a command word (R57): no line of the table reads so. -/
theorem assemble_reset : assemble "RESET" = none := by
  have hnoLine : assemblerTable.find? (fun row => row.1 == "RESET") = none := by
    refine List.find?_eq_none.mpr fun row hrow => ?_
    rw [beq_iff_eq]
    obtain ⟨i, rfl⟩ | ⟨b, rfl⟩ | ⟨b, rfl⟩ := mem_assemblerTable.mp hrow
    · cases i <;> simp [assemblyText, ← String.toList_inj]
    · simp [pressText, ← String.toList_inj]
    · simp [releaseText, ← String.toList_inj]
  rw [assemble, hnoLine, Option.map_none]

/-- The words of the pseudo-operations (R58). -/
theorem encode_press (b : Button) : encode (press b) = 0x08#8 + BitVec.ofNat 8 b.val := by revert b; decide

theorem encode_release (b : Button) : encode (release b) = 0x00#8 + BitVec.ofNat 8 b.val := by revert b; decide

end assembler

/-- Settles O6: each text has one line in the assembler's table, and R57's examples are the lines of four operations. -/
theorem assemblerTextStandsForItsWord : Obligations.AssemblerTextStandsForItsWord := by
  refine ⟨assemble_assemblyText, fun b => ?_, assemble_assemblyText (.update 0 stateOn), assemble_assemblyText (.update 4 stateOff),
    assemble_assemblyText (.encode 2 stateOn), assemble_assemblyText (.sample 0b00101#5), assemble_reset⟩
  rw [← encode_press, ← encode_release]
  exact ⟨assemble_pressText b, assemble_releaseText b, decode_encode _, decode_encode _⟩

end Sys2Proof

/-! PROOFS of the family 40_encoder (O7, O9, O10, O12): the bytes of `encode` (R61 to R65) and the operation ENCODE (R68). -/

namespace Sys2Proof.Machine

section encoderBytes
variable (c : Config)

/-- `(hi << 4) | lo` is the sum of its disjoint fields: nothing spills over (R64). -/
theorem byteOfNibbles_toNat (hi lo : Nibble) : (byteOfNibbles hi lo).toNat = 16 * hi.toNat + lo.toNat := by
  rw [byteOfNibbles_eq_append, BitVec.toNat_append, ← Nat.shiftLeft_add_eq_or_of_lt lo.isLt, Nat.shiftLeft_eq, Nat.mul_comm]

/-- The status nibble is the code index number (R47), so what follows of one holds of both. -/
theorem statusNibble_eq_codeIndex (s : OnOff) : statusNibble s = codeIndex s := rfl

theorem codeIndex_toNat (s : OnOff) : (codeIndex s).toNat = if s = stateOn then 9 else 8 := by cases s <;> rfl

theorem codeIndex_setWidth (s : OnOff) : (codeIndex s).setWidth 8 = if s = stateOn then 0x09#8 else 0x08#8 := by
  cases s <;> rfl

theorem codeIndex_injective : Function.Injective codeIndex := by decide

/-- The note's 7 bits are kept in the byte (R61). -/
theorem encodePacket_byte2_toNat (m : Message) : (encodePacket c m).byte2.toNat = 60 + m.button.val := by
  rw [encodePacket, BitVec.toNat_setWidth_of_le (by decide), note_toNat]

/-- On and Off differ in the code index number, byte0[3:0] (R65). -/
theorem encodePacket_byte0_low_ne {m n : Message} (h : m.state ≠ n.state) :
    (encodePacket c m).byte0.extractLsb' 0 4 ≠ (encodePacket c n).byte0.extractLsb' 0 4 := by
  simpa [encodePacket] using codeIndex_injective.ne h

/-- On and Off differ in the status nibble, byte1[7:4] (R65). -/
theorem encodePacket_byte1_high_ne {m n : Message} (h : m.state ≠ n.state) :
    (encodePacket c m).byte1.extractLsb' 4 4 ≠ (encodePacket c n).byte1.extractLsb' 4 4 := by
  simpa [encodePacket, statusNibble_eq_codeIndex] using codeIndex_injective.ne h

/-- Different Buttons have different notes (R65). -/
theorem encodePacket_byte2_ne {m n : Message} (h : m.button ≠ n.button) :
    (encodePacket c m).byte2 ≠ (encodePacket c n).byte2 := by
  intro heq
  have hnat := congrArg BitVec.toNat heq
  rw [encodePacket_byte2_toNat, encodePacket_byte2_toNat] at hnat
  exact h (Fin.ext (Nat.add_left_cancel hnat))

/-- A packet gives its Message back: byte0 tells the State, byte2 the Button (R65). -/
theorem encodePacket_injective : Function.Injective (encodePacket c) := by
  intro m n heq
  have hstate : m.state = n.state := by
    by_contra h
    exact encodePacket_byte0_low_ne c h (by rw [heq])
  have hbutton : m.button = n.button := by
    by_contra h
    exact encodePacket_byte2_ne c h (by rw [heq])
  cases m
  cases n
  cases hstate
  cases hbutton
  rfl

end encoderBytes

/-- Settles O9: a byte of two nibbles is their exact sum, and the note is `60 + b` with `b` at most 4. -/
theorem packetArithmeticIsExact : Obligations.PacketArithmeticIsExact := by
  intro c m
  have hnote := encodePacket_byte2_toNat c m
  refine ⟨_, rfl, ?_, ?_, hnote, by omega, rfl⟩
  · rw [encodePacket, byteOfNibbles_toNat, codeIndex_toNat]
  · rw [encodePacket, byteOfNibbles_toNat, statusNibble_eq_codeIndex, codeIndex_toNat]

/-- Settles O10: the State shows in byte0 and byte1, the Button in byte2, and together they are the Message. -/
theorem encodeFunctionIsInjective : Obligations.EncodeFunctionIsInjective := fun c _ _ =>
  ⟨fun heq => encodePacket_injective c heq, fun h => ⟨encodePacket_byte0_low_ne c h, encodePacket_byte1_high_ne c h⟩,
    encodePacket_byte2_ne c⟩

section encodeWords
variable {w : Byte}

/-- The opcode map's mask covers `OP`: the fixed bits of ENCODE's row are `OP` 001 (R53). -/
theorem opField_of_encodeRow (h : w &&& 0xF0#8 = 0x20#8) : opField w = 0b001#3 := by
  have hmask : opField (w &&& 0xF0#8) = opField w := by
    rw [opField, BitVec.extractLsb'_and]
    exact BitVec.and_allOnes
  rw [← hmask, h]
  rfl

/-- The mask covers the reserved bit too, which is 0 in ENCODE's row (R53). -/
theorem reservedField_of_encodeRow (h : w &&& 0xF0#8 = 0x20#8) : reservedField w = false := by
  have hmask : reservedField (w &&& 0xF0#8) = reservedField w := by
    rw [reservedField, BitVec.getLsbD_and]
    exact Bool.and_true _
  rw [← hmask, h]
  rfl

/-- A format M word with the reserved bit set or no Button in its field is refused (R54). -/
theorem decode_refuses_formatM (hop : opField w = 0b000#3 ∨ opField w = 0b001#3)
    (h : reservedField w = true ∨ 4 < (buttonField w).toNat) : ∃ d, decode w = .error d := by
  cases hr : reservedField w with
  | true => exact ⟨_, decode_of_reservedBit hop hr⟩
  | false => exact ⟨_, decode_of_button_gt hop hr (h.resolve_left (by simp [hr]))⟩

end encodeWords

/-- Settles O12: the row's fixed bits are `OP` and the reserved bit, so the decoder's branches say which words ENCODE has; once decoded
it completes, its effect being the registers as they were and one packet. -/
theorem encodeOperation : Obligations.EncodeOperation := by
  refine ⟨fun w hrow hb => ?_, fun w hop h => decode_refuses_formatM (.inr hop) h, fun b d s => ⟨_, exec_eq_complete ..⟩⟩
  obtain ⟨b, hval, hb⟩ := buttonOfField_of_le hb
  exact ⟨b, hval, decode_of_encode (opField_of_encodeRow hrow) (reservedField_of_encodeRow hrow) hb⟩

/-- Settles O7: the nibbles widened to bytes are the spec's constants, and the note's byte is the number `60 + b`. -/
theorem encodeFunctionBytes : Obligations.EncodeFunctionBytes := by
  intro c b s
  have hnote : (note b).setWidth 8 = BitVec.ofNat 8 (60 + b.val) := by
    refine BitVec.eq_of_toNat_eq ((encodePacket_byte2_toNat c { button := b, state := s }).trans ?_)
    rw [BitVec.toNat_ofNat, Nat.mod_eq_of_lt (by omega)]
  simp only [packetBytes, encodePacket, byteOfNibbles, statusNibble_eq_codeIndex, codeIndex_setWidth, hnote, velocity]

end Sys2Proof.Machine

/-! PROOFS of the family 41_transition_filter (O13 to O20, O22, O23, O27, O42, O44 to O46): the Reducer and UPDATE (R69 to R76), the Sampler
and SAMPLE (R77 to R85), and runs of them: the filter's output against its latch, `LAST` against `LATCH`, the round trips (R83, R86). -/

namespace Sys2Proof.Machine

section sampleEffect
variable (c : Config) (lv : Levels) (o : SampleOrder) (blk : BlockState)

/-- After a SAMPLE `LAST` is its level vector (R78). -/
@[simp] theorem sampleLoop_last : (sampleLoop c lv o.toList blk).1.last = lv := by
  obtain ⟨hlast, -, -⟩ := sampleLoop_spec c lv o.toList o.nodup_toList blk
  exact levels_ext fun j => by rw [hlast, if_pos (o.mem_toList j)]

/-- A SAMPLE leaves the level in the latch where it changed, and the old State elsewhere (R80). -/
theorem sampleLoop_latch (j : Button) : readLevel (sampleLoop c lv o.toList blk).1.latch j =
    if readLevel lv j ≠ readLevel blk.last j then readLevel lv j else readLevel blk.latch j := by
  obtain ⟨-, hlatch, -⟩ := sampleLoop_spec c lv o.toList o.nodup_toList blk
  simp only [hlatch, o.mem_toList, true_and]

/-- A SAMPLE emits for the Buttons whose level differs from both registers, in `SAMPLE_ORDER` (R80, R81). -/
theorem sampleLoop_packets : (sampleLoop c lv o.toList blk).2 =
    (o.toList.filter (changedBoth lv blk)).map fun i => encodePacket c { button := i, state := readLevel lv i } := by
  obtain ⟨-, -, hout⟩ := sampleLoop_spec c lv o.toList o.nodup_toList blk
  exact hout

/-- Where the registers agree, a SAMPLE makes both of them its level vector (R83). -/
theorem sampleLoop_of_registers_agree (h : blk.last = blk.latch) :
    (sampleLoop c lv o.toList blk).1 = { latch := lv, last := lv } := by
  have hlatch : (sampleLoop c lv o.toList blk).1.latch = lv := levels_ext fun j => by
    rw [sampleLoop_latch, h, ite_not]
    split
    · exact Eq.symm ‹_›
    · rfl
  exact congrArg₂ BlockState.mk hlatch (sampleLoop_last ..)

end sampleEffect

section effect
variable (c : Config) (blk : BlockState) {i : Instr} {b : Button}

/-- Unless the Encoder is asked for the Button, an operation emits for it exactly when it writes the Button's latch, and then one packet,
of the State written (R70, R71). -/
theorem effectOf_packetsOf (h : ∀ d, i ≠ .encode b d) :
    (effectOf c i blk).2.filter (packetIsOf b) =
      if readLevel (effectOf c i blk).1.latch b = readLevel blk.latch b then []
      else [encodePacket c { button := b, state := readLevel (effectOf c i blk).1.latch b }] := by
  cases i with
  | update b' v =>
    rw [effectOf, reduce_output, reduce_latch, readLevel_writeLevel]
    by_cases hb : b = b'
    · subst hb
      by_cases hv : v = readLevel blk.latch b
      · simp [messageOperand, hv]
      · simp [messageOperand, hv, Ne.symm hv]
    · split <;> simp [messageOperand, hb, Ne.symm hb]
  | encode b' d =>
    have hb : b' ≠ b := fun e => h d (e ▸ rfl)
    simp [effectOf, messageOperand, hb]
  | sample lv =>
    rw [effectOf, sampleLoop_packetsOf, sampleLoop_latch]
    by_cases hlatch : readLevel lv b = readLevel blk.latch b
    · simp [changedBoth, hlatch]
    · by_cases hlast : readLevel lv b = readLevel blk.last b <;> simp [changedBoth, hlast, hlatch, Ne.symm hlatch]

/-- Without UPDATE no operation makes the registers differ (R83). -/
theorem effectOf_registers_agree (hi : ∀ b v, i ≠ .update b v) (h : blk.last = blk.latch) :
    (effectOf c i blk).1.last = (effectOf c i blk).1.latch := by
  cases i with
  | update b v => exact absurd rfl (hi b v)
  | encode b d => exact h
  | sample lv => rw [effectOf, sampleLoop_of_registers_agree c lv _ blk h]

end effect

section directions
variable (c : Config) (b : Button)

@[simp] theorem packetDirection_encodePacket (m : Message) : packetDirection (encodePacket c m) = m.state := by
  simp only [packetDirection, encodePacket, byteOfNibbles_high]
  cases m.state <;> rfl

@[simp] theorem directionsOf_append (ps qs : List Packet) :
    directionsOf b (ps ++ qs) = directionsOf b ps ++ directionsOf b qs := by
  simp [directionsOf]

/-- The directions an operation adds for a Button: the State it writes into the Button's latch, if it writes one. -/
theorem directionsOf_effectOf {i : Instr} (blk : BlockState) (h : ∀ d, i ≠ .encode b d) :
    directionsOf b (effectOf c i blk).2 =
      if readLevel (effectOf c i blk).1.latch b = readLevel blk.latch b then [] else [readLevel (effectOf c i blk).1.latch b] := by
  rw [directionsOf, effectOf_packetsOf c blk h]
  split <;> simp

/-- One more direction keeps the alternation when it differs from the last one. -/
theorem alternatesFrom_concat {x y : OnOff} {xs : List OnOff} (h : alternatesFrom x xs) (hy : y ≠ xs.getLastD x) :
    alternatesFrom x (xs ++ [y]) := by
  induction xs generalizing x with
  | nil => exact ⟨hy, trivial⟩
  | cons z rest ih =>
    obtain ⟨hz, hrest⟩ := h
    rw [List.getLastD_cons] at hy
    exact ⟨hz, ih hrest hy⟩

end directions

/-- Every operation of the transition filter keeps its output in step with its latch (R70, R73). -/
theorem latchTracksStream_complete {i : Instr} {s : State} (hi : ∀ b d, i ≠ .encode b d) (hs : s.latchTracksStream) :
    (s.complete (effectOf s.config i s.block).1 (effectOf s.config i s.block).2).latchTracksStream := by
  intro b
  obtain ⟨halt, hlast⟩ := hs b
  rw [State.complete_stream, State.complete_block, directionsOf_append, directionsOf_effectOf _ _ _ (hi b)]
  split
  · rename_i hsame
    rw [List.append_nil, hsame]
    exact ⟨halt, hlast⟩
  · rename_i hnew
    exact ⟨alternatesFrom_concat halt (hlast ▸ hnew), List.getLastD_concat⟩

section events
variable {w : Byte} {i : Instr}

theorem decode?_of_decode (h : decode w = .ok i) : decode? w = some i := by
  rw [decode?, h]

/-- An event of the transition filter issues no ENCODE. -/
theorem ne_encode_of_isFilterOperation (h : (Event.command w).isFilterOperation = true) (hd : decode w = .ok i) (b : Button)
    (d : OnOff) : i ≠ .encode b d := by
  rintro rfl
  simp [Event.isFilterOperation, decode?_of_decode hd] at h

theorem ne_update_of_isUpdate (h : (Event.command w).isUpdate = false) (hd : decode w = .ok i) (b : Button) (v : OnOff) :
    i ≠ .update b v := by
  rintro rfl
  simp [Event.isUpdate, decode?_of_decode hd] at h

end events

/-- Settles O42: an event of the filter is an UPDATE or a SAMPLE, and both emit for a Button what they write into its latch. -/
theorem latchTracksTheOutputStream : Obligations.LatchTracksTheOutputStream := by
  intro s t hs hevents hstep
  obtain ⟨-, e, rest, he, hrespond⟩ := step_next_cases hstep
  have hfilter : e.isFilterOperation = true := hevents e (by simp [he])
  obtain ⟨w, i, rfl, hd, hexec⟩ | ⟨rfl, -⟩ | ⟨w, i, u, rfl, -⟩ := respond_next_cases hrespond
  · rw [exec_eq_complete] at hexec
    cases hexec
    have hdrop : s.dropEvent.latchTracksStream := hs
    exact ⟨latchTracksStream_complete (ne_encode_of_isFilterOperation hfilter hd) hdrop,
      fun e' he' => hevents e' (List.mem_of_mem_tail he')⟩
  · cases hfilter
  · cases hfilter

/-- What every step keeps holds after any number of steps. -/
theorem runSteps_invariant {P : State → Prop} (hstep : ∀ s t, P s → step s = .next t → P t) (n : Nat) {s t : State}
    (hs : P s) (hrun : runSteps n s = .next t) : P t := by
  induction n generalizing s with
  | zero => cases hrun; exact hs
  | succ n ih =>
    rw [runSteps] at hrun
    split at hrun
    · exact ih (hstep _ _ hs ‹_›) hrun
    · cases hrun
    · cases hrun

/-- The registers agree, and no UPDATE is to come as an ordinary command (R83). -/
def State.registersAgreeWithoutUpdates (s : State) : Prop :=
  s.block.last = s.block.latch ∧ ∀ e ∈ s.events, e.isUpdate = false

theorem step_registersAgreeWithoutUpdates (s t : State) (hs : s.registersAgreeWithoutUpdates) (hstep : step s = .next t) :
    t.registersAgreeWithoutUpdates := by
  obtain ⟨hagree, hevents⟩ := hs
  obtain ⟨-, -, htail, -, -⟩ := stepKeepsParametersAndEmittedPackets s t hstep
  refine ⟨?_, fun e he => hevents e (List.mem_of_mem_tail (htail ▸ he))⟩
  obtain ⟨-, e, rest, he, hrespond⟩ := step_next_cases hstep
  obtain ⟨w, i, rfl, hd, hexec⟩ | ⟨-, rfl⟩ | ⟨w, i, u, -, -, -, rfl⟩ := respond_next_cases hrespond
  · rw [exec_eq_complete] at hexec
    cases hexec
    exact effectOf_registers_agree _ _ (ne_update_of_isUpdate (hevents _ (by simp [he])) hd) hagree
  · rfl
  · rfl

/-- Settles O44: a reset clears both registers, alone or behind an operation, and of the operations only UPDATE makes them differ. -/
theorem lastEqualsLatchWithoutUpdates : Obligations.LastEqualsLatchWithoutUpdates := by
  intro n s t hagree hevents hrun
  obtain ⟨hagree', -⟩ := runSteps_invariant step_registersAgreeWithoutUpdates n ⟨hagree, hevents⟩ hrun
  exact hagree'

section reduce
variable (c : Config) (latch : Levels) (m : Message)

theorem reduce_of_stored (h : readLevel latch m.button = m.state) : reduce c latch m = (latch, .nothing) := if_pos h

theorem reduce_of_differs (h : readLevel latch m.button ≠ m.state) :
    reduce c latch m = (writeLevel latch m.button m.state, .midi (encodePacket c m)) := if_neg h

/-- After a reduction the latch holds the Message's State. -/
@[simp] theorem readLevel_reduce_same : readLevel (reduce c latch m).1 m.button = m.state := by
  rw [reduce_latch, readLevel_writeLevel_same]

end reduce

/-- Settles O13: the two branches of the algorithm; a write of one entry leaves the others. -/
theorem reduceFollowsItsAlgorithm : Obligations.ReduceFollowsItsAlgorithm := fun c latch m =>
  ⟨reduce_of_stored c latch m, fun h => ⟨_, reduce_of_differs c latch m h, fun i => readLevel_writeLevel latch m.button i m.state⟩⟩

/-- Settles O14: with the State stored nothing changes; otherwise there is a packet, and an entry that changes is the one written. -/
theorem reduceEmitsIffStateDiffers : Obligations.ReduceEmitsIffStateDiffers := by
  intro c latch m
  obtain ⟨h, hr⟩ | ⟨h, hr⟩ := reduce_cases c latch m
  · simp [hr, h]
  · refine ⟨by simp [hr, h], by simp [hr, h], fun i hi => ?_⟩
    rw [hr] at hi ⊢
    have hown : i = m.button := by
      by_contra hne
      exact hi (readLevel_writeLevel_other latch hne m.state)
    subst hown
    exact ⟨rfl, ⟨_, rfl⟩, readLevel_writeLevel_same ..⟩

/-- Settles O15: after a reduction, and so after an UPDATE, the State is stored, and a stored State has no effect. -/
theorem reduceIsIdempotent : Obligations.ReduceIsIdempotent := by
  constructor
  · intro c latch latch' m e hreduce
    refine reduce_of_stored c latch' m ?_
    rw [← readLevel_reduce_same c latch m, hreduce]
  · intro b v s
    have hsecond := effectOf_update_of_stored s.config _ (latch_after_update s.config s.block b v)
    exact ⟨_, _, exec_eq_complete .., exec_of_no_effect hsecond⟩

section rowWords
variable {w mask pattern : Byte}

/-- A row whose mask covers `OP` fixes it (R53). -/
theorem opField_of_row (hmask : opField mask = 0b111#3) (h : w &&& mask = pattern) : opField w = opField pattern := by
  have hand : opField (w &&& mask) = opField w &&& opField mask := BitVec.extractLsb'_and
  rw [← h, hand, hmask]
  exact BitVec.and_allOnes.symm

/-- A row whose mask covers the reserved bit fixes it (R53). -/
theorem reservedField_of_row (hmask : reservedField mask = true) (h : w &&& mask = pattern) :
    reservedField w = reservedField pattern := by
  have hand : reservedField (w &&& mask) = (reservedField w && reservedField mask) := BitVec.getLsbD_and
  rw [← h, hand, hmask, Bool.and_true]

end rowWords

/-- Settles O16: the row's fixed bits choose the decoder's branch; UPDATE's effect is that of a reduction, on `LATCH` alone. -/
theorem updateOperation : Obligations.UpdateOperation := by
  refine ⟨fun w hrow hb => ?_, fun w hop h => decode_refuses_formatM (.inl hop) h, fun b v s => ⟨fun hstored => ?_, fun hdiffers => ?_⟩⟩
  · obtain ⟨b, hval, hb⟩ := buttonOfField_of_le hb
    exact ⟨b, hval, decode_of_update (opField_of_row rfl hrow) (reservedField_of_row rfl hrow) hb⟩
  · exact ⟨_, exec_of_no_effect (effectOf_update_of_stored _ _ hstored)⟩
  · have hreduce := reduce_of_differs s.config s.block.latch (messageOperand b v) hdiffers
    refine ⟨_, s.opIndex + 1, ?_, fun i => readLevel_writeLevel s.block.latch b i v⟩
    rw [exec_eq_complete, effectOf, hreduce]
    rfl

/-- Settles O17: SAMPLE's row fixes `OP` alone; the loop's registers and packets over the whole `SAMPLE_ORDER`. -/
theorem sampleOperation : Obligations.SampleOperation := by
  refine ⟨fun w hrow => decode_of_sample (opField_of_row rfl hrow), fun lv s =>
    ⟨_, s.opIndex + 1, ?_, sampleLoop_latch s.config lv s.config.sampleOrder s.block⟩⟩
  have hblock : (effectOf s.config (.sample lv) s.block).1 =
      { latch := (effectOf s.config (.sample lv) s.block).1.latch, last := lv } :=
    congrArg (BlockState.mk _) (sampleLoop_last ..)
  rw [exec_eq_complete, hblock, effectOf, sampleLoop_packets]
  rfl

section detect
variable (last lv : Levels)

/-- The Sampler's Messages are those of the Buttons whose level changed, in the order it looks at them (R77). -/
theorem detect_eq_map_filter (order : List Button) : detect order last lv =
    (order.filter fun i => decide (readLevel lv i ≠ readLevel last i)).map (sampledMessage lv) := by
  induction order with
  | nil => rfl
  | cons i rest ih =>
    rw [detect] at ih ⊢
    rw [List.filterMap_cons, List.filter_cons, ih, levelOperand]
    by_cases h : readLevel lv i = readLevel last i <;> simp [h]

theorem detect_buttons (order : List Button) : (detect order last lv).map Message.button =
    order.filter fun i => decide (readLevel lv i ≠ readLevel last i) := by
  rw [detect_eq_map_filter, List.map_map]
  exact List.map_id _

/-- The Sampler reports no Button twice (R78). -/
theorem detect_buttons_nodup (o : SampleOrder) : ((detect o.toList last lv).map Message.button).Nodup := by
  rw [detect_buttons]
  exact o.nodup_toList.filter _

/-- The Sampler reports exactly the changed levels (R78). -/
theorem mem_detect {o : SampleOrder} {m : Message} : m ∈ detect o.toList last lv ↔
    m.state = readLevel lv m.button ∧ readLevel lv m.button ≠ readLevel last m.button := by
  rw [detect_eq_map_filter]
  constructor
  · intro hm
    obtain ⟨i, hi, rfl⟩ := List.mem_map.mp hm
    exact ⟨rfl, of_decide_eq_true (List.mem_filter.mp hi).2⟩
  · rintro ⟨hstate, hchanged⟩
    refine List.mem_map.mpr ⟨m.button, List.mem_filter.mpr ⟨o.mem_toList _, decide_eq_true hchanged⟩, ?_⟩
    exact congrArg (Message.mk m.button) hstate.symm

end detect

/-- Settles O18: `detect` filters an order of all Buttons without repetition, and SAMPLE's loop leaves each level in `LAST`. -/
theorem detectReportsExactlyTheChanges : Obligations.DetectReportsExactlyTheChanges :=
  ⟨fun _ last lv _ => mem_detect last lv, fun order last lv => detect_buttons_nodup last lv order,
    fun _ _ => ⟨_, exec_eq_complete .., sampleLoop_last ..⟩⟩

/-- Settles O19: both sides leave each changed level in the latch, and emit for the Buttons whose level differs from both registers. -/
theorem sampleIsDetectThenReduce : Obligations.SampleIsDetectThenReduce := by
  intro c lv blk
  obtain ⟨hin, hout, hpackets⟩ := reduceAll_spec c _ (detect_buttons_nodup blk.last lv c.sampleOrder) blk.latch
  refine Prod.ext (congrArg₂ BlockState.mk (levels_ext fun b => ?_) (sampleLoop_last ..)) ?_
  · rw [sampleLoop_latch]
    split
    · rename_i hchanged
      exact (hin (sampledMessage lv b) ((mem_detect _ _).mpr ⟨rfl, hchanged⟩)).symm
    · rename_i hsame
      refine (hout b ?_).symm
      rw [detect_buttons]
      exact fun hmem => hsame (of_decide_eq_true (List.mem_filter.mp hmem).2)
  · rw [hpackets, sampleLoop_packets, detect_eq_map_filter, List.filter_map, List.map_map, List.filter_filter]
    refine congrArg (List.map _) (List.filter_congr fun i _ => ?_)
    rw [changedBoth, Bool.decide_and, Bool.and_comm]
    rfl

/-- Settles O20: UPDATE's output is one Effect; SAMPLE's packets are of distinct Buttons, of which there are five. -/
theorem packetsPerOperation : Obligations.PacketsPerOperation := by
  intro i s
  refine ⟨_, _, exec_eq_complete i s, rfl, ?_⟩
  cases i with
  | update b v =>
    have hle : (effectOf s.config (.update b v) s.block).2.length ≤ 1 := by
      rw [effectOf, reduce_output]
      split <;> simp
    exact ⟨by omega, fun _ _ _ => hle, nofun, nofun⟩
  | encode b d => exact ⟨by simp [effectOf], nofun, fun _ _ _ => rfl, nofun⟩
  | sample lv =>
    refine ⟨?_, nofun, nofun, fun _ _ b => ?_⟩
    · rw [effectOf, sampleLoop_packets, List.length_map, ← s.config.sampleOrder.length_toList]
      exact List.length_filter_le ..
    · rw [effectOf, sampleLoop_packetsOf]
      split <;> simp

/-- Settles O22: a Button's packet goes out when its level differs from both registers, and the latch follows a changed level. -/
theorem divergedRegistersUnderSample : Obligations.DivergedRegistersUnderSample := by
  intro lv i s
  refine ⟨_, _, exec_eq_complete .., rfl, fun hlast => ?_, fun hlast hlatch => ?_, fun hlast hlatch => ?_⟩
  · simp [effectOf, sampleLoop_packetsOf, sampleLoop_latch, changedBoth, hlast]
  · simp [effectOf, sampleLoop_packetsOf, sampleLoop_latch, changedBoth, hlatch]
  · simp [effectOf, sampleLoop_packetsOf, changedBoth, hlast, Ne.symm hlatch]

/-- Settles O23: `reduceAll_perm` for the Reducer; a SAMPLE's registers do not mention the order, and its packets are a filter of it. -/
theorem reductionsOfDistinctButtonsCommute : Obligations.ReductionsOfDistinctButtonsCommute := by
  refine ⟨fun c latch ms ns hp hnodup => reduceAll_perm c latch hp hnodup, fun c order lv blk => ⟨?_, ?_⟩⟩
  · have hlatch : (sampleLoop { c with sampleOrder := order } lv order.toList blk).1.latch =
        (sampleLoop c lv c.sampleOrder.toList blk).1.latch :=
      levels_ext fun b => by rw [sampleLoop_latch, sampleLoop_latch]
    exact congrArg₂ BlockState.mk hlatch ((sampleLoop_last ..).trans (sampleLoop_last ..).symm)
  · have horders : order.toList.Perm c.sampleOrder.toList := order.isPermutation.trans c.sampleOrder.isPermutation.symm
    rw [sampleLoop_packets, sampleLoop_packets]
    exact (horders.filter _).map _

/-- Operations carried out one after the other: the registers after the last one, and all packets in order (R35). -/
def effectAll (c : Config) : List Instr → BlockState → BlockState × List Packet
  | [], blk => (blk, [])
  | i :: rest, blk =>
    ((effectAll c rest (effectOf c i blk).1).1, (effectOf c i blk).2 ++ (effectAll c rest (effectOf c i blk).1).2)

/-- A run of issued operations takes one step each and has their effects one after the other (R35, R113). -/
theorem runSteps_commandsOf (ops : List Instr) {s : State} (hr : s.refused = none) (he : s.events = commandsOf ops) :
    runSteps ops.length s = .next { s with
      block := (effectAll s.config ops s.block).1
      events := []
      stream := s.stream ++ (effectAll s.config ops s.block).2
      opIndex := s.opIndex + ops.length } := by
  induction ops generalizing s with
  | nil => cases s; cases he; simp [runSteps, effectAll]
  | cons i rest ih =>
    rw [List.length_cons, runSteps_of_command _ hr he, ih]
    · simp [effectAll, Nat.add_comm, Nat.add_left_comm]
    · exact hr
    · rfl

section runs
variable (c : Config) {b : Button}

/-- Every packet of a run of operations is the Encoder's (R48, R59). -/
theorem effectAll_packets {ops : List Instr} {blk : BlockState} {p : Packet} (h : p ∈ (effectAll c ops blk).2) :
    ∃ m, p = encodePacket c m := by
  induction ops generalizing blk with
  | nil => cases h
  | cons i rest ih =>
    rcases List.mem_append.mp h with hfirst | hrest
    · exact effectOf_packets c hfirst
    · exact ih hrest

/-- An operation agrees with `v` at the Button: it neither delivers nor shows another State for it, and asks no ENCODE of it (R99). -/
def agreesAt (b : Button) (v : OnOff) (i : Instr) : Prop :=
  (∀ v', i = .update b v' → v' = v) ∧ (∀ lv, i = .sample lv → readLevel lv b = v) ∧ ∀ d, i ≠ .encode b d

/-- An operation that agrees with the Button's latch leaves it and emits nothing for the Button (R70, R99). -/
theorem effectOf_of_agreesAt {i : Instr} {blk : BlockState} (h : agreesAt b (readLevel blk.latch b) i) :
    readLevel (effectOf c i blk).1.latch b = readLevel blk.latch b ∧ (effectOf c i blk).2.filter (packetIsOf b) = [] := by
  obtain ⟨hupdate, hsample, hencode⟩ := h
  have hlatch : readLevel (effectOf c i blk).1.latch b = readLevel blk.latch b := by
    cases i with
    | update b' v =>
      rw [effectOf, reduce_latch, readLevel_writeLevel]
      split
      · rename_i hb
        exact hupdate v (congrArg (Instr.update · v) hb.symm)
      · rfl
    | encode b' d => rfl
    | sample lv =>
      rw [effectOf, sampleLoop_latch, hsample lv rfl, ite_self]
  exact ⟨hlatch, by rw [effectOf_packetsOf c blk hencode, if_pos hlatch]⟩

theorem effectAll_of_agreesAt (ops : List Instr) {blk : BlockState} (h : ∀ i ∈ ops, agreesAt b (readLevel blk.latch b) i) :
    readLevel (effectAll c ops blk).1.latch b = readLevel blk.latch b ∧ (effectAll c ops blk).2.filter (packetIsOf b) = [] := by
  induction ops generalizing blk with
  | nil => exact ⟨rfl, rfl⟩
  | cons i rest ih =>
    obtain ⟨hi, hrest⟩ := List.forall_mem_cons.mp h
    obtain ⟨hlatch, hsilent⟩ := effectOf_of_agreesAt c hi
    obtain ⟨ihLatch, ihSilent⟩ := ih (hlatch ▸ hrest)
    exact ⟨ihLatch.trans hlatch, by rw [effectAll, List.filter_append, hsilent, ihSilent, List.append_nil]⟩

end runs

/-- Settles O27: what went out for a Button is in its latch, and operations that agree with the latch are silent for the Button. -/
theorem droppedPacketIsNotEmittedAgain : Obligations.DroppedPacketIsNotEmittedAgain := by
  refine ⟨fun b v s => ⟨_, exec_eq_complete .., latch_after_update ..⟩, fun b lv s => ⟨_, _, exec_eq_complete .., rfl, fun hout => ?_⟩,
    fun b v s hv => ⟨⟨_, exec_of_no_effect (effectOf_update_of_stored _ _ hv), rfl⟩, fun lv hlv => ?_⟩,
    fun b s ops hr hupdate hsample hencode => ?_⟩
  · obtain ⟨hchanged, -⟩ : readLevel lv b ≠ readLevel s.block.last b ∧ readLevel s.block.latch b ≠ readLevel lv b := by
      simpa [effectOf, sampleLoop_packetsOf, changedBoth] using hout
    exact (sampleLoop_latch ..).trans (if_pos hchanged)
  · have hagrees : agreesAt b (readLevel s.block.latch b) (.sample lv) :=
      ⟨nofun, fun lv' h => by cases h; rw [hlv, hv], nofun⟩
    obtain ⟨hlatch, hsilent⟩ := effectOf_of_agreesAt s.config hagrees
    exact ⟨_, _, exec_eq_complete .., rfl, hsilent, hlatch.trans hv⟩
  · have hagrees : ∀ i ∈ ops, agreesAt b (readLevel s.block.latch b) i := fun i hi =>
      ⟨fun v h => hupdate v (h ▸ hi), fun lv h => hsample lv (h ▸ hi), fun d h => hencode d (h ▸ hi)⟩
    obtain ⟨hlatch, hsilent⟩ := effectAll_of_agreesAt s.config ops hagrees
    exact ⟨_, _, runSteps_commandsOf ops hr rfl, rfl, hsilent, hlatch⟩

section updates
variable (c : Config) (b : Button)

/-- The States that the Messages deliver to a Button, in order. -/
def statesFor (b : Button) (ms : List Message) : List OnOff := (ms.filter fun m => decide (m.button = b)).map Message.state

theorem statesFor_cons (m : Message) (rest : List Message) :
    statesFor b (m :: rest) = if m.button = b then m.state :: statesFor b rest else statesFor b rest := by
  by_cases h : m.button = b <;> simp [statesFor, h]

/-- The latch keeps the last State delivered to the Button (R69). -/
theorem reduceAll_latch (ms : List Message) (latch : Levels) :
    readLevel (reduceAll c ms latch).1 b = (statesFor b ms).getLastD (readLevel latch b) := by
  induction ms generalizing latch with
  | nil => rfl
  | cons m rest ih =>
    rw [reduceAll, ih, reduce_latch, readLevel_writeLevel, statesFor_cons]
    by_cases hb : m.button = b
    · rw [if_pos hb, if_pos hb.symm, List.getLastD_cons]
    · rw [if_neg hb, if_neg (Ne.symm hb)]

/-- Messages that alternate at every Button are all emitted (R70). -/
theorem reduceAll_packets_of_alternates (ms : List Message) {latch : Levels}
    (h : ∀ b, alternatesFrom (readLevel latch b) (statesFor b ms)) :
    (reduceAll c ms latch).2 = ms.map (encodePacket c) := by
  induction ms generalizing latch with
  | nil => rfl
  | cons m rest ih =>
    have hown := h m.button
    rw [statesFor_cons, if_pos rfl] at hown
    obtain ⟨hdiffers, hownRest⟩ := hown
    have hrest (b : Button) : alternatesFrom (readLevel (reduce c latch m).1 b) (statesFor b rest) := by
      by_cases hb : b = m.button
      · rw [hb, readLevel_reduce_same]
        exact hownRest
      · have hother := h b
        rw [statesFor_cons, if_neg (Ne.symm hb)] at hother
        rwa [reduce_latch, readLevel_writeLevel_other latch hb]
    rw [reduceAll, ih hrest, reduce_output, if_neg (Ne.symm hdiffers)]
    rfl

/-- Two Messages for each of the five Buttons are ten. -/
theorem length_of_two_each {ms : List Message} (h : ∀ b, (ms.filter fun m => decide (m.button = b)).length = 2) :
    ms.length = 10 := by
  have hbuttons : (ms.map Message.button).Perm (allButtons ++ allButtons) := List.perm_iff_count.mpr fun b => by
    have htwo : (allButtons ++ allButtons).count b = 2 := by revert b; decide
    rw [htwo, ← h b, List.count, List.countP_map, List.countP_eq_length_filter]
    rfl
  rw [← List.length_map Message.button, hbuttons.length_eq]
  rfl

end updates

/-- Settles O45: the Messages alternate at every Button, so each of them goes out, and the last one of each Button is Off. -/
theorem roundTripByUpdates : Obligations.RoundTripByUpdates := by
  intro c ms h
  have hstates (b : Button) : statesFor b ms = [stateOn, stateOff] := by rw [statesFor, h b]; rfl
  have hlatch : (reduceAll c ms BlockState.allOff.latch).1 = 0b00000#5 := levels_ext fun b => by
    rw [reduceAll_latch, hstates]
    exact (readLevel_allOff_latch b).symm
  have hpackets : (reduceAll c ms BlockState.allOff.latch).2 = ms.map (encodePacket c) :=
    reduceAll_packets_of_alternates c ms fun b => by
      rw [hstates, readLevel_allOff_latch]
      exact ⟨by decide, by decide, trivial⟩
  have hten : ms.length = 10 := length_of_two_each fun b => by rw [h b]; rfl
  have hrun := runSteps_updates ms (State.powerOn_refused c _) (State.powerOn_events c _)
  rw [hten] at hrun
  exact ⟨_, hrun, hlatch, by simp [hpackets], by simp [hpackets, hten], rfl⟩

section samples
variable (c : Config) (b : Button)

/-- The new levels of a sequence, seen from `x`: each that differs from the one before it. -/
def changesFrom : OnOff → List OnOff → List OnOff
  | _, [] => []
  | x, y :: rest => if y = x then changesFrom x rest else y :: changesFrom y rest

/-- A level held is no change. -/
theorem changesFrom_replicate_append (x : OnOff) (n : Nat) (ys : List OnOff) :
    changesFrom x (List.replicate n x ++ ys) = changesFrom x ys := by
  induction n with
  | zero => rfl
  | succ n ih => rw [List.replicate_succ, List.cons_append, changesFrom, if_pos rfl, ih]

/-- A level that is Off for a while, then On, then Off to the end changes twice (R86). -/
theorem changesFrom_roundTrip (i j k : Nat) :
    changesFrom stateOff (List.replicate i stateOff ++ (List.replicate (j + 1) stateOn ++ List.replicate (k + 1) stateOff)) =
      [stateOn, stateOff] := by
  have hheld : changesFrom stateOff (List.replicate k stateOff) = [] := by
    simpa [changesFrom] using changesFrom_replicate_append stateOff k []
  simp [changesFrom_replicate_append, List.replicate_succ, changesFrom, hheld]

/-- From agreeing registers, SAMPLEs leave both registers at the last level vector (R83). -/
theorem effectAll_samples_registers (lvs : List Levels) (v : Levels) :
    (effectAll c (lvs.map .sample) { latch := v, last := v }).1 = { latch := lvs.getLastD v, last := lvs.getLastD v } := by
  induction lvs generalizing v with
  | nil => rfl
  | cons lv rest ih =>
    rw [List.map_cons, effectAll, effectOf, sampleLoop_of_registers_agree c lv _ _ rfl, ih, List.getLastD_cons]

/-- From agreeing registers, SAMPLEs emit for a Button its level's changes (R78, R83). -/
theorem effectAll_samples_packetsOf (lvs : List Levels) (v : Levels) :
    (effectAll c (lvs.map .sample) { latch := v, last := v }).2.filter (packetIsOf b) =
      (changesFrom (readLevel v b) (lvs.map fun lv => readLevel lv b)).map fun x => encodePacket c { button := b, state := x } := by
  induction lvs generalizing v with
  | nil => rfl
  | cons lv rest ih =>
    have hregisters : (effectOf c (.sample lv) { latch := v, last := v }).1 = { latch := lv, last := lv } :=
      sampleLoop_of_registers_agree c lv c.sampleOrder _ rfl
    have hturn := effectOf_packetsOf c { latch := v, last := v } (nofun : ∀ d, Instr.sample lv ≠ .encode b d)
    rw [hregisters] at hturn
    rw [List.map_cons, effectAll, hregisters, List.filter_append, ih, hturn, List.map_cons, changesFrom]
    split
    · rename_i hheld
      rw [hheld, List.nil_append]
    · rfl

/-- A Button's last level, read from the last level vector. -/
theorem readLevel_getLastD (lvs : List Levels) (v : Levels) :
    readLevel (lvs.getLastD v) b = (lvs.map fun lv => readLevel lv b).getLastD (readLevel v b) := by
  induction lvs generalizing v with
  | nil => rfl
  | cons lv rest ih => rw [List.getLastD_cons, ih, List.map_cons, List.getLastD_cons]

/-- Two of the Encoder's packets for each of the five Buttons are ten. -/
theorem length_of_two_packets_each {ps : List Packet} (hps : ∀ p ∈ ps, ∃ m, p = encodePacket c m)
    (h : ∀ b, (ps.filter (packetIsOf b)).length = 2) : ps.length = 10 := by
  obtain ⟨ms, rfl⟩ : ps ∈ Set.range (List.map (encodePacket c)) := by
    rw [Set.range_list_map]
    intro p hp
    obtain ⟨m, rfl⟩ := hps p hp
    exact ⟨m, rfl⟩
  rw [List.length_map]
  refine length_of_two_each fun b => ?_
  have htwo := h b
  rw [List.filter_map, List.length_map] at htwo
  simpa [Function.comp_def] using htwo

end samples

/-- Settles O46: after reset the registers agree, so SAMPLEs emit each Button's changes of level and leave its last level, Off. -/
theorem roundTripBySamples : Obligations.RoundTripBySamples := by
  intro c lvs h
  have hregisters : (effectAll c (lvs.map .sample) .allOff).1 = { latch := 0b00000#5, last := 0b00000#5 } := by
    have hlast : lvs.getLastD 0b00000#5 = 0b00000#5 := levels_ext fun b => by
      obtain ⟨i, j, k, hlevels⟩ := h b
      have hoff : readLevel 0b00000#5 b = stateOff := readLevel_allOff_latch b
      rw [readLevel_getLastD, hlevels, hoff]
      simp [List.getLastD_eq_getLast?, List.getLast?_replicate]
    rw [BlockState.allOff, effectAll_samples_registers, hlast]
  have hpackets (b : Button) : (effectAll c (lvs.map .sample) .allOff).2.filter (packetIsOf b) =
      [encodePacket c { button := b, state := stateOn }, encodePacket c { button := b, state := stateOff }] := by
    obtain ⟨i, j, k, hlevels⟩ := h b
    have hoff : readLevel 0b00000#5 b = stateOff := readLevel_allOff_latch b
    rw [BlockState.allOff, effectAll_samples_packetsOf, hlevels, hoff, changesFrom_roundTrip]
    rfl
  have hten : (effectAll c (lvs.map .sample) .allOff).2.length = 10 :=
    length_of_two_packets_each c (fun _ => effectAll_packets c) fun b => by rw [hpackets b]; rfl
  have hrun := runSteps_commandsOf (lvs.map .sample) (State.powerOn_refused c _) (State.powerOn_events c _)
  rw [List.length_map] at hrun
  exact ⟨_, hrun, hregisters, hten, rfl, hpackets⟩

end Sys2Proof.Machine

/-! PROOFS of the family 60_exceptions (O28, O29, O35, O37, O38, O47, O48): the refusals and their reasons (R88, R89), the refused mark
(R91), a halted environment (R100), the model against the hardware (R88, R106), and the contract behind the output (R98, R102). -/

namespace Sys2Proof.Machine

section environment
variable {box : List Packet}

theorem transmitted_notConfigured (ps : List Packet) : transmitted false ps = [] :=
  List.flatMap_eq_nil_iff.mpr fun _ _ => rfl

theorem post_of_full (h : mailboxCapacity ≤ box.length) (drop : Bool) (p : Packet) : post box drop p = box :=
  if_neg fun ⟨hroom, _⟩ => Nat.not_lt.mpr h hroom

theorem post_of_room (h : box.length < mailboxCapacity) (p : Packet) : post box false p = box ++ [p] :=
  if_pos ⟨h, by simp⟩

/-- Without an elective drop, packets for which there is room are all kept, in order (R102; log 18). -/
theorem postAll_of_room (ps : List Packet) (h : box.length + ps.length ≤ mailboxCapacity) :
    postAll box (ps.map fun p => (false, p)) = box ++ ps := by
  induction ps generalizing box with
  | nil => exact (List.append_nil box).symm
  | cons p rest ih =>
    rw [List.length_cons] at h
    have hrest : (box ++ [p]).length + rest.length ≤ mailboxCapacity := by
      rw [List.length_append, List.length_singleton]
      omega
    rw [List.map_cons, postAll, post_of_room (by omega), ih hrest, List.append_assoc, List.singleton_append]

end environment

/-- Settles O28: `send` gives no byte in the one state, and the packet's own bytes in the other. -/
theorem sendTransmitsOnlyWhenConfigured : Obligations.SendTransmitsOnlyWhenConfigured := fun ps =>
  ⟨transmitted_notConfigured ps, rfl⟩

/-- Settles O29: an operation emits at most five packets (R82), for which an empty mailbox has room. -/
theorem oneOperationFitsAnEmptyMailbox : Obligations.OneOperationFitsAnEmptyMailbox := by
  refine ⟨fun i s => ?_, fun box drop p hfull => post_of_full hfull drop p⟩
  obtain ⟨t, out, hexec, hstream, hfive, -⟩ := packetsPerOperation i s
  have hroom : ([] : List Packet).length + out.length ≤ mailboxCapacity := by
    rw [List.length_nil, Nat.zero_add]
    exact hfive
  exact ⟨t, out, hexec, hstream, postAll_of_room out hroom⟩

section answers
variable {s t : State} {w v : Byte} {i : Instr} {d : DecodeRefusal} {e : Event} {rest : List Event} {r : Refusal}

theorem issue_of_decode_ok (h : decode w = .ok i) (s : State) : issue w s = exec i s := by
  simp [issue, h]

theorem hardwareIssue_of_decode_ok (h : decode w = .ok i) (s : State) : hardwareIssue w s = exec i s := by
  simp [hardwareIssue, h]

/-- An operation that a reset coincides with is not refused, whichever outcome it has (R106). -/
theorem issueDuringReset_of_decode_ok (h : decode w = .ok i) (s : State) : ∃ t, issueDuringReset w s = .next t := by
  simp only [issueDuringReset, h, exec_eq_complete, thenReset]
  split <;> exact ⟨_, rfl⟩

/-- A word that is no operation is refused also when a reset coincides with it (R88; log 9). -/
theorem issueDuringReset_of_decode_error (h : decode w = .error d) (s : State) :
    issueDuringReset w s = .refused (refusalOf d) := by
  simp [issueDuringReset, h]

/-- Where a reset coincides with an operation the hardware's answer is the model's (R106; log 8). -/
theorem hardwareRespond_resetDuring_of_decode_ok (h : decode w = .ok i) (s : State) :
    hardwareRespond (.resetDuring w) s = respond (.resetDuring w) s := by
  simp [hardwareRespond, h]

/-- Where a reset coincides with a word that is no operation the hardware has the reset alone (R88). -/
theorem hardwareRespond_resetDuring_of_decode_error (h : decode w = .error d) (s : State) :
    hardwareRespond (.resetDuring w) s = .next s.discard.assertReset := by
  simp [hardwareRespond, h]

/-- All that an event is refused for: its word is no operation, or it is an overlapping issue (R88, R89). -/
theorem respond_refused_cases (h : respond e s = .refused r) :
    (∃ w d, (e = .command w ∨ e = .resetDuring w) ∧ decode w = .error d ∧ r = refusalOf d) ∨
    (∃ w v, e = .overlapping w v ∧ r = .overlappingIssue) := by
  cases e with
  | command w =>
    rw [respond] at h
    cases hd : decode w with
    | ok i =>
      rw [issue_of_decode_ok hd, exec_eq_complete] at h
      cases h
    | error d =>
      rw [issue_of_decode_error hd] at h
      cases h
      exact .inl ⟨w, d, .inl rfl, hd, rfl⟩
  | reset => cases h
  | resetDuring w =>
    rw [respond] at h
    cases hd : decode w with
    | ok i =>
      obtain ⟨t, ht⟩ := issueDuringReset_of_decode_ok hd s
      rw [ht] at h
      cases h
    | error d =>
      rw [issueDuringReset_of_decode_error hd] at h
      cases h
      exact .inl ⟨w, d, .inr rfl, hd, rfl⟩
  | overlapping w v =>
    cases h
    exact .inr ⟨w, v, rfl, rfl⟩
  | halt => cases h

/-- What the model answers with a next state the hardware answers alike: the two differ at refused words alone (R88). -/
theorem hardwareRespond_of_respond_next (h : respond e s = .next t) : hardwareRespond e s = .next t := by
  obtain ⟨w, i, rfl, hd, hexec⟩ | ⟨rfl, -⟩ | ⟨w, i, u, rfl, hd, -⟩ := respond_next_cases h
  · exact (hardwareIssue_of_decode_ok hd s).trans hexec
  · exact h
  · exact (hardwareRespond_resetDuring_of_decode_ok hd s).trans h

theorem step_of_overlapping (hr : s.refused = none) (he : s.events = .overlapping w v :: rest) :
    step s = .refused .overlappingIssue :=
  step_of_event hr he

theorem step_of_refused_resetDuring (hr : s.refused = none) (he : s.events = .resetDuring w :: rest) (hd : decode w = .error d) :
    step s = .refused (refusalOf d) := by
  rw [step_of_event hr he]
  exact issueDuringReset_of_decode_error hd _

theorem step_of_halt (hr : s.refused = none) (he : s.events = .halt :: rest) : step s = .fault .environmentHalted :=
  step_of_event hr he

/-- A step of an unmarked run that is refused took its next event and was refused for it. -/
theorem step_refused_cases (hr : s.refused = none) (h : step s = .refused r) :
    ∃ e rest, s.events = e :: rest ∧ respond e s.dropEvent = .refused r := by
  cases he : s.events with
  | nil =>
    rw [step_of_no_event hr he] at h
    cases h
  | cons e rest => exact ⟨e, rest, rfl, (step_of_event hr he) ▸ h⟩

/-- A step of the model that answers a next state is a step of the hardware (R88). -/
theorem hardwareStep_of_step_next (h : step s = .next t) : hardwareStep s = .next t := by
  obtain ⟨-, e, rest, he, hrespond⟩ := step_next_cases h
  rw [hardwareStep_of_event he]
  exact hardwareRespond_of_respond_next hrespond

end answers

/-- Settles O47: step by step, what the model answers with a next state the hardware answers alike. -/
theorem modelRunsAreHardwareRuns : Obligations.ModelRunsAreHardwareRuns := by
  intro n s t hrun
  induction n generalizing s with
  | zero => exact hrun
  | succ n ih =>
    rw [runSteps] at hrun
    split at hrun
    · rw [hardwareRunSteps, hardwareStep_of_step_next ‹_›]
      exact ih _ hrun
    · cases hrun
    · cases hrun

/-- The format M values of `OP` (R49). -/
theorem opField_formatM_iff {w : Byte} : (opField w = 0b000#3 ∨ opField w = 0b001#3) ↔ (opField w).toNat ≤ 1 := by
  generalize opField w = f
  revert f
  decide

/-- Construction refuses a configuration with a value out of bounds, and for no other reason (R8, R89). -/
theorem construct_eq_refused_iff {c : RawConfig} {es : List Event} {r : Refusal} :
    construct c es = .refused r ↔ r = .configIllFormed ∧ (15 < c.cable ∨ 15 < c.channel) := by
  by_cases hwf : c.wellFormed = true
  · obtain ⟨hcable, hchannel⟩ := rawConfig_wellFormed_iff.mp hwf
    simp [construct_of_wellFormed hwf, Nat.not_lt.mpr hcable, Nat.not_lt.mpr hchannel]
  · have hout : 15 < c.cable ∨ 15 < c.channel := by
      rw [rawConfig_wellFormed_iff] at hwf
      omega
    simp [construct_of_not_wellFormed hwf, hout, eq_comm]

/-- Settles O35: the decoder's three branches and the overlap are all that a step is refused for, and `construct` has one refusal. -/
theorem refusalReasonsAreTheClosedList : Obligations.RefusalReasonsAreTheClosedList := by
  refine ⟨fun s w rest hr he => ⟨fun hop => ?_, fun hop hbit => ?_, fun hop hbit hbutton => ?_⟩,
    fun s w v i j rest hr he _ _ => step_of_overlapping hr he, fun s r hr hstep => ?_, fun c es => ?_, fun c es r hrefused => ?_⟩
  · exact step_of_refused_command hr he (decode_of_reservedOpcode hop)
  · exact step_of_refused_command hr he (decode_of_reservedBit (opField_formatM_iff.mpr hop) hbit)
  · exact step_of_refused_command hr he (decode_of_button_gt (opField_formatM_iff.mpr hop) hbit hbutton)
  · obtain ⟨e, rest, -, hrespond⟩ := step_refused_cases hr hstep
    obtain ⟨w, d, -, -, rfl⟩ | ⟨w, v, -, rfl⟩ := respond_refused_cases hrespond
    · cases d <;> simp [refusalOf]
    · simp
  · rw [construct_eq_refused_iff, and_iff_right rfl]
  · obtain ⟨hreason, -⟩ := construct_eq_refused_iff.mp hrefused
    exact hreason

section stops
variable {s : State} {e : Event} {rest : List Event} {r : Refusal} {f : Fault}

theorem State.observation_of_not_final (h : s.isFinal = false) : s.observation = none := by
  simp [State.observation, h]

theorem State.isFinal_of_refused (h : s.refused = some r) : s.isFinal = false := by
  simp [State.isFinal, h]

theorem State.isFinal_of_event (h : s.events = e :: rest) : s.isFinal = false := by
  simp [State.isFinal, h]

/-- A run with the refused mark has no observation (R114). -/
theorem State.observation_of_refused (h : s.refused = some r) : s.observation = none :=
  State.observation_of_not_final (State.isFinal_of_refused h)

/-- A mark is not changed by the same mark again. -/
theorem State.markRefused_of_refused (h : s.refused = some r) : s.markRefused r = s := by
  rw [State.markRefused, ← h]

/-- A step that stops with a fault leaves the run where it is. -/
theorem advance_of_step_fault (h : step s = .fault f) : advance s = s := by
  simp [advance, h]

/-- A run that one step leaves where it is stays there. -/
theorem advanceFor_of_fixed (h : advance s = s) (n : Nat) : advanceFor n s = s := by
  induction n with
  | zero => rfl
  | succ n ih => rw [advanceFor, h, ih]

/-- A run stops at its first fault, however many steps it is given. -/
theorem runSteps_of_step_fault (h : step s = .fault f) (n : Nat) : runSteps (n + 1) s = .fault f := by
  rw [runSteps, h]

/-- A refused step sets the mark, changes nothing else, and takes the run's observation away (R10, R88, R114). -/
theorem advance_observation_of_step_refused (h : step s = .refused r) :
    advance s = { s with refused := some r } ∧ (advance s).observation = none := by
  have hadvance : advance s = s.markRefused r := advance_of_step_refused h
  exact ⟨hadvance, State.observation_of_refused (by rw [hadvance, State.markRefused_refused])⟩

end stops

/-- Settles O37: a reset does not write the mark, a marked run's step is refused with it, and marking it again changes nothing. -/
theorem refusedMarkIsNeverCleared : Obligations.RefusedMarkIsNeverCleared := by
  intro s r hmark
  have hstep : step s = .refused r := step_of_refused hmark
  have hfixed : advance s = s := (advance_of_step_refused hstep).trans (State.markRefused_of_refused hmark)
  exact ⟨hmark, hstep, State.observation_of_refused hmark, advanceFor_of_fixed hfixed⟩

/-- Settles O38: the halt stays the next event, so each step stops with the same fault, and a run with an event to come is not final. -/
theorem haltedEnvironmentIsStuckNotFinal : Obligations.HaltedEnvironmentIsStuckNotFinal := by
  intro s rest hr he
  have hstep : step s = .fault .environmentHalted := step_of_halt hr he
  have hnotFinal : s.isFinal = false := State.isFinal_of_event he
  exact ⟨runSteps_of_step_fault hstep, advanceFor_of_fixed (advance_of_step_fault hstep), hnotFinal,
    State.observation_of_not_final hnotFinal⟩

/-- Settles O48: both events are refused before anything is written, and the hardware takes the reset without the word. -/
theorem overlapsAndRefusedWordsDuringResetAreRefused : Obligations.OverlapsAndRefusedWordsDuringResetAreRefused := by
  refine ⟨fun s w v rest hr he => ?_, fun s w rest d hr he hd => ?_⟩
  · have hstep := step_of_overlapping hr he
    exact ⟨hstep, advance_observation_of_step_refused hstep⟩
  · have hstep := step_of_refused_resetDuring hr he hd
    obtain ⟨hadvance, hnone⟩ := advance_observation_of_step_refused hstep
    have hhardware : hardwareStep s = .next s.dropEvent.discard.assertReset := by
      rw [hardwareStep_of_event he, hardwareRespond_resetDuring_of_decode_error hd]
    exact ⟨hstep, hadvance, hnone, _, hhardware, rfl, rfl, rfl, by simp [he]⟩

end Sys2Proof.Machine

/-! PROOFS of the family 70_reset_and_hazards (O31, O33, O39, O43): reset (R103, R105), a reset that coincides with an operation (R106), the
length of a run (R113), and the start of a run (R114). -/

namespace Sys2Proof.Machine

section coincidingReset
variable {s : State} {w : Byte} {i : Instr} {e : Event} {rest : List Event}

theorem State.dropEvent_of_event (he : s.events = e :: rest) : s.dropEvent = { s with events := rest } := by
  simp [State.dropEvent, he]

/-- A reset that coincides with an operation follows the whole operation or replaces it (R106). -/
theorem issueDuringReset_outcomes (hd : decode w = .ok i) (s : State) :
    issueDuringReset w s = .next (s.complete (effectOf s.config i s.block).1 (effectOf s.config i s.block).2).assertReset ∨
    issueDuringReset w s = .next s.discard.assertReset := by
  simp only [issueDuringReset, hd, exec_eq_complete, thenReset]
  split
  · exact .inl rfl
  · exact .inr rfl

end coincidingReset

/-- Settles O33: the step's answer is one of the two of `issueDuringReset_outcomes`, and the reset in both clears the registers alone. -/
theorem resetDuringOperationHasTwoOutcomes : Obligations.ResetDuringOperationHasTwoOutcomes := by
  intro s w rest i hr he hd
  have hstep : step s = issueDuringReset w s.dropEvent := step_of_event hr he
  have hevents : s.dropEvent.events = rest := by rw [State.dropEvent_of_event he]
  obtain hprecedes | hdiscarded := issueDuringReset_outcomes hd s.dropEvent
  · exact ⟨_, _, hstep.trans hprecedes, exec_eq_complete i s, rfl, rfl, hevents, hr, .inl rfl⟩
  · exact ⟨_, _, hstep.trans hdiscarded, exec_eq_complete i s, rfl, rfl, hevents, hr, .inr rfl⟩

section dutiful
variable {s t : State} {w : Byte} {e : Event} {rest : List Event}

theorem decode_ok_of_decode?_isSome (h : (decode? w).isSome = true) : ∃ i, decode w = .ok i := by
  cases hd : decode w with
  | ok i => exact ⟨i, rfl⟩
  | error d => simp [decode?, hd] at h

/-- An event in which the environment keeps its duties neither stops the run nor is refused (R89, R90, R101). -/
theorem respond_of_isDutiful (h : e.isDutiful = true) (s : State) : ∃ t, respond e s = .next t := by
  cases e with
  | command w =>
    obtain ⟨i, hd⟩ := decode_ok_of_decode?_isSome h
    exact ⟨_, (issue_of_decode_ok hd s).trans (exec_eq_complete i s)⟩
  | reset => exact ⟨_, rfl⟩
  | resetDuring w =>
    obtain ⟨i, hd⟩ := decode_ok_of_decode?_isSome h
    exact issueDuringReset_of_decode_ok hd s
  | overlapping w v => cases h
  | halt => cases h

/-- A step on a dutiful event completes and takes that event alone (R113). -/
theorem step_of_isDutiful (hr : s.refused = none) (he : s.events = e :: rest) (h : e.isDutiful = true) :
    ∃ t, step s = .next t ∧ t.events = rest ∧ t.refused = none := by
  obtain ⟨t, hrespond⟩ := respond_of_isDutiful h s.dropEvent
  have hstep : step s = .next t := (step_of_event hr he).trans hrespond
  obtain ⟨-, -, htail, hrefused, -⟩ := stepKeepsParametersAndEmittedPackets s t hstep
  exact ⟨t, hstep, by rw [htail, he, List.tail_cons], hrefused⟩

theorem runSteps_of_step_next (h : step s = .next t) (n : Nat) : runSteps (n + 1) s = runSteps n t := by
  rw [runSteps, h]

/-- Dutiful events are taken one a step (R113). -/
theorem runSteps_of_isDutiful (n : Nat) (hr : s.refused = none) (h : ∀ e ∈ s.events, e.isDutiful = true)
    (hn : n ≤ s.events.length) : ∃ t, runSteps n s = .next t ∧ t.events = s.events.drop n ∧ t.refused = none := by
  induction n generalizing s with
  | zero => exact ⟨s, rfl, rfl, hr⟩
  | succ n ih =>
    cases he : s.events with
    | nil => simp [he] at hn
    | cons e rest =>
      rw [he] at h hn
      obtain ⟨hfirst, hrest⟩ := List.forall_mem_cons.mp h
      obtain ⟨u, hstep, rfl, hrefused⟩ := step_of_isDutiful hr he hfirst
      obtain ⟨t, hrun, hevents, ht⟩ := ih hrefused hrest (Nat.le_of_succ_le_succ hn)
      exact ⟨t, (runSteps_of_step_next hstep n).trans hrun, hevents, ht⟩

theorem State.isFinal_iff : s.isFinal = true ↔ s.events = [] ∧ s.refused = none := by
  simp [State.isFinal]

end dutiful

/-- Settles O39: `n` steps take the first `n` events, and a run without a mark is final when no event is left. -/
theorem runOfDutifulEventsTakesThatManySteps : Obligations.RunOfDutifulEventsTakesThatManySteps := by
  intro s n hr h hn
  obtain ⟨t, hrun, hevents, hrefused⟩ := runSteps_of_isDutiful n hr h hn
  have hfinal : t.isFinal = true ↔ n = s.events.length := by
    rw [State.isFinal_iff, and_iff_left hrefused, hevents, List.drop_eq_nil_iff]
    omega
  exact ⟨t, hrun, hevents, hrefused, hfinal⟩

/-- Settles O31: asserting reset and starting a run are written out in their definitions, and a reset event is answered by the first. -/
theorem resetWritesBothRegistersOnly : Obligations.ResetWritesBothRegistersOnly := by
  refine ⟨fun s => ⟨s.opIndex, rfl⟩, fun s rest hr he => ⟨s.opIndex, ?_⟩, fun c es => ⟨rfl, rfl⟩⟩
  rw [step_of_reset hr he, State.dropEvent_of_event he]
  rfl

/-- Settles O43: nothing has been emitted, which is well formed and tracked by a latch all Off, and both registers are all Off. -/
theorem invariantsHoldAtTheStart : Obligations.InvariantsHoldAtTheStart := fun _ _ =>
  ⟨nofun, fun b => ⟨trivial, (readLevel_allOff_latch b).symm⟩, rfl⟩

end Sys2Proof.Machine
